-- ==== Sys2Proof/Word.lean ====
section
/-! DEFINITION. The widths of R9: u32 registers and timestamps, u8 outputs, and the 40-bit operation word of R80. -/

namespace Sys2Proof

/-- `u32` of R9: WIDTH, START, SNAP, the `now` operand and every register of the map. -/
abbrev Word := BitVec 32

/-- `u8` of R9: the duty and the colour outputs. -/
abbrev Byte := BitVec 8

/-- One operation word (R80): always 40 bits. -/
abbrev OpWord := BitVec 40

end Sys2Proof
end

