-- ==== Sys2Proof/Config.lean ====
section
/-! DEFINITION. The parameters of R6 that are fixed for the block, and the OPEN parameter REPORT_EOL. -/

namespace Sys2Proof.Config

/-- N_CH, the number of channels (R5, R6). -/
def nCh : Nat := 3

/-- TS_W, the width of `now` and of START (R6). -/
def tsW : Nat := 32

/-- IN_LO, where the linear maps' input interval starts (R6). -/
def inLo : Int := 1000

/-- IN_HI, where the linear maps' input interval ends (R6). -/
def inHi : Int := 2000

/-- OUT_MAX, the top of the output range (R6). -/
def outMax : Int := 255

/-- PWR_THRESHOLD (R6). -/
def pwrThreshold : Int := 1500

/-- HUE_SEG, the width of a hue segment (R6). -/
def hueSeg : Int := 85

/-- The default of the model argument POWER_GUARD (R6): the observed behaviour. -/
def powerGuardDefault : Bool := false

/-- REPORT_EOL, an OPEN parameter (R6, R7): the terminator of a diagnostic line. It has no body, so no proof can see
which string it is (log 6). -/
opaque reportEol : String

end Sys2Proof.Config
end

