-- ==== Sys2Proof/Syntax.lean ====
section
/-! DEFINITION. The operations of the block as syntax: one constructor for each row of the opcode table (R82), over
the channels of R20 and the registers of R39. Numbers of channels and registers appear only in Decode. -/

namespace Sys2Proof

/-- The three channels of R20: 0 Power, 1 Color, 2 Brightness. -/
inductive Channel where
  | power
  | color
  | bright
  deriving DecidableEq, Repr

/-- The 16 registers of the map of R39. -/
inductive Reg where
  | width (c : Channel)
  | start (c : Channel)
  | status (c : Channel)
  | snap (c : Channel)
  | outPower
  | outDuty
  | outRgb
  | config
  deriving DecidableEq, Repr

/-- The six operations of R82. -/
inductive Instr where
  /-- NOP (R148). -/
  | nop
  /-- RISE c, now (R111). -/
  | rise (c : Channel) (now : Word)
  /-- FALL c, now (R113). -/
  | fall (c : Channel) (now : Word)
  /-- CONSUME c (R140). -/
  | consume (c : Channel)
  /-- READ i (R147). -/
  | read (r : Reg)
  /-- RESET (R230). -/
  | reset
  deriving DecidableEq, Repr

/-- The five agents of R21. -/
inductive Agent where
  /-- Edge source Ec. -/
  | edge (c : Channel)
  /-- The consumer, the source's Dispatcher. -/
  | consumer
  /-- The host. -/
  | host
  deriving DecidableEq, Repr

end Sys2Proof
end

