-- ==== Sys2Proof/WellFormed.lean ====
section
/-! DEFINITION. Which operation words are well formed: the five cases of R90, each written from R90's own sentence on
the bits of the word and not from the decoder of R91. A term of `Instr` needs no check of its own: `Channel` has
exactly the three channels (R83) and `Reg` exactly the 16 registers (R84), so an ill-formed operand has no term. -/

namespace Sys2Proof

/-- The reasons of R91. Case (e) of R90 reports `nonzeroReserved`. -/
inductive IllegalReason where
  | reservedOpcode
  | nonzeroReserved
  | noSuchChannel
  | nonzeroData
  deriving DecidableEq, Repr

/-- R90 (a): OP is one of 0x6 to 0xF. -/
def illegalOpcode (w : OpWord) : Bool := decide (6 ≤ (w.extractLsb' 36 4).toNat)

/-- R90 (b): OP is 0x0, 0x1, 0x2, 0x3 or 0x5, and RSV is not 00. -/
def illegalReserved (w : OpWord) : Bool :=
  ([0x0#4, 0x1#4, 0x2#4, 0x3#4, 0x5#4].contains (w.extractLsb' 36 4)) && (w.extractLsb' 34 2 != 0b00#2)

/-- R90 (c): OP is 0x1, 0x2 or 0x3, and CH is 11. -/
def illegalChannel (w : OpWord) : Bool :=
  ([0x1#4, 0x2#4, 0x3#4].contains (w.extractLsb' 36 4)) && (w.extractLsb' 32 2 == 0b11#2)

/-- R90 (d): OP is 0x0, 0x3, 0x4 or 0x5, and DATA is not 0. -/
def illegalData (w : OpWord) : Bool :=
  ([0x0#4, 0x3#4, 0x4#4, 0x5#4].contains (w.extractLsb' 36 4)) && (w.extractLsb' 0 32 != 0#32)

/-- R90 (e): OP is 0x0 or 0x5, and CH is not 00. -/
def illegalZeroFormat (w : OpWord) : Bool :=
  ([0x0#4, 0x5#4].contains (w.extractLsb' 36 4)) && (w.extractLsb' 32 2 != 0b00#2)

/-- The reason of R90: that of the first of (a) to (e) that applies, none for a legal word. -/
def firstIllegal (w : OpWord) : Option IllegalReason :=
  if illegalOpcode w then some .reservedOpcode
  else if illegalReserved w then some .nonzeroReserved
  else if illegalChannel w then some .noSuchChannel
  else if illegalData w then some .nonzeroData
  else if illegalZeroFormat w then some .nonzeroReserved
  else none

/-- A word is legal when none of (a) to (e) holds (R90). -/
def OpWord.wellFormed (w : OpWord) : Bool :=
  !(illegalOpcode w || illegalReserved w || illegalChannel w || illegalData w || illegalZeroFormat w)

end Sys2Proof
end

