-- ==== Sys2Proof/Decode.lean ====
section
/-! DEFINITION. Decoding (R91), encoding (R81 to R89), the rows of the opcode table, and the byte order of a transport
(R62). Decoding reads the word alone (R93). -/

namespace Sys2Proof

/-- CH as a number (R83). -/
def Channel.number : Channel → BitVec 2
  | .power => 0b00#2
  | .color => 0b01#2
  | .bright => 0b10#2

/-- The channel that CH names; 11 names none (R83). -/
def Channel.ofNumber (n : BitVec 2) : Option Channel :=
  if n = 0b00#2 then some .power
  else if n = 0b01#2 then some .color
  else if n = 0b10#2 then some .bright
  else none

/-- The index of a register: `4·c + k` for a channel's registers (R39). -/
def Reg.index : Reg → BitVec 4
  | .width c => c.number ++ 0b00#2
  | .start c => c.number ++ 0b01#2
  | .status c => c.number ++ 0b10#2
  | .snap c => c.number ++ 0b11#2
  | .outPower => 12#4
  | .outDuty => 13#4
  | .outRgb => 14#4
  | .config => 15#4

/-- The register an index names: every value names one (R84), by the table of R39. -/
def Reg.ofIndex (i : BitVec 4) : Reg :=
  match i.toNat with
  | 0 => .width .power
  | 1 => .start .power
  | 2 => .status .power
  | 3 => .snap .power
  | 4 => .width .color
  | 5 => .start .color
  | 6 => .status .color
  | 7 => .snap .color
  | 8 => .width .bright
  | 9 => .start .bright
  | 10 => .status .bright
  | 11 => .snap .bright
  | 12 => .outPower
  | 13 => .outDuty
  | 14 => .outRgb
  | _ => .config

/-- OP, bits 39:36 (R81). -/
def opField (w : OpWord) : BitVec 4 := w.extractLsb' 36 4

/-- RSV, bits 35:34 (R81). -/
def rsvField (w : OpWord) : BitVec 2 := w.extractLsb' 34 2

/-- CH, bits 33:32 (R81). -/
def chField (w : OpWord) : BitVec 2 := w.extractLsb' 32 2

/-- REG, bits 35:32, READ only (R81). -/
def regField (w : OpWord) : BitVec 4 := w.extractLsb' 32 4

/-- DATA, bits 31:0 (R81, R85): used unchanged. -/
def dataField (w : OpWord) : Word := w.extractLsb' 0 32

/-- Case (c) of R91: go on with the channel CH names. -/
def withChannel (w : OpWord) (k : Channel → Except IllegalReason Instr) : Except IllegalReason Instr :=
  match Channel.ofNumber (chField w) with
  | some c => k c
  | none => .error .noSuchChannel

/-- Case (d) of R91: go on where DATA is 0. -/
def withZeroData (w : OpWord) (k : Except IllegalReason Instr) : Except IllegalReason Instr :=
  if dataField w ≠ 0#32 then .error .nonzeroData else k

/-- Case (e) of R91: go on where CH is 00. -/
def withZeroChannel (w : OpWord) (k : Except IllegalReason Instr) : Except IllegalReason Instr :=
  if chField w ≠ 0b00#2 then .error .nonzeroReserved else k

/-- `decode` of R91, its tests in R91's order. -/
def decode (w : OpWord) : Except IllegalReason Instr :=
  if 0x6#4 ≤ opField w then .error .reservedOpcode
  else if opField w = 0x4#4 then withZeroData w (.ok (.read (Reg.ofIndex (regField w))))
  else if rsvField w ≠ 0b00#2 then .error .nonzeroReserved
  else if opField w = 0x1#4 then withChannel w fun c => .ok (.rise c (dataField w))
  else if opField w = 0x2#4 then withChannel w fun c => .ok (.fall c (dataField w))
  else if opField w = 0x3#4 then withChannel w fun c => withZeroData w (.ok (.consume c))
  else if opField w = 0x0#4 then withZeroData w (withZeroChannel w (.ok .nop))
  else withZeroData w (withZeroChannel w (.ok .reset))

/-- Format E of R81 (and C, with DATA 0): OP, `00`, CH, DATA. -/
def channelWord (op : BitVec 4) (c : Channel) (data : Word) : OpWord := op ++ 0b00#2 ++ c.number ++ data

/-- Format R of R81 (and Z, with `0000`): OP, REG, 0. -/
def registerWord (op reg : BitVec 4) : OpWord := op ++ reg ++ 0#32

/-- The word of an operation (R87, R88, R89). -/
def encode : Instr → OpWord
  | .nop => registerWord 0x0#4 0#4
  | .rise c now => channelWord 0x1#4 c now
  | .fall c now => channelWord 0x2#4 c now
  | .consume c => channelWord 0x3#4 c 0#32
  | .read r => registerWord 0x4#4 r.index
  | .reset => registerWord 0x5#4 0#4

/-- One row of `opcode_table.json`: the word's bits under `mask` equal `pattern`. -/
structure OpRow where
  mnemonic : String
  pattern : OpWord
  mask : OpWord
  deriving DecidableEq, Repr

/-- The row of an operation in `opcode_table.json`. -/
def Instr.row : Instr → OpRow
  | .nop => ⟨"NOP", 0x0000000000#40, 0xFFFFFFFFFF#40⟩
  | .rise _ _ => ⟨"RISE", 0x1000000000#40, 0xFC00000000#40⟩
  | .fall _ _ => ⟨"FALL", 0x2000000000#40, 0xFC00000000#40⟩
  | .consume _ => ⟨"CONSUME", 0x3000000000#40, 0xFCFFFFFFFF#40⟩
  | .read _ => ⟨"READ", 0x4000000000#40, 0xF0FFFFFFFF#40⟩
  | .reset => ⟨"RESET", 0x5000000000#40, 0xFFFFFFFFFF#40⟩

/-- The opcode table, in its order. -/
def opcodeTable : List OpRow :=
  [Instr.nop.row, (Instr.rise .power 0#32).row, (Instr.fall .power 0#32).row, (Instr.consume .power).row,
    (Instr.read .config).row, Instr.reset.row]

/-- A word has a row's pattern under its mask. -/
def OpRow.fits (row : OpRow) (w : OpWord) : Bool := w &&& row.mask == row.pattern

/-- What reading an operation from a transport can report (log 11). -/
inductive TransportError where
  /-- Fewer bytes than the five of a word. -/
  | truncated
  /-- The five bytes are an illegal word (R90). -/
  | illegal (reason : IllegalReason)
  deriving DecidableEq, Repr

/-- The bytes of a word on a transport, the least significant first (R62). -/
def wordBytes (w : OpWord) : List Byte :=
  [w.extractLsb' 0 8, w.extractLsb' 8 8, w.extractLsb' 16 8, w.extractLsb' 24 8, w.extractLsb' 32 8]

/-- The bytes of a 32-bit register value on a transport, the least significant first (R62). -/
def registerBytes (v : Word) : List Byte :=
  [v.extractLsb' 0 8, v.extractLsb' 8 8, v.extractLsb' 16 8, v.extractLsb' 24 8]

/-- The operation at the head of a byte stream and the bytes after it (R62, R91). -/
def decodeBytes : List Byte → Except TransportError (Instr × List Byte)
  | b0 :: b1 :: b2 :: b3 :: b4 :: rest =>
    match decode (b4 ++ b3 ++ b2 ++ b1 ++ b0) with
    | .ok i => .ok (i, rest)
    | .error r => .error (.illegal r)
  | _ => .error .truncated

/-- The word whose low `nbits` bits are those of `w`, every bit above them 0. -/
def tableWord (nbits w : Nat) : OpWord := BitVec.ofNat 40 (w % 2 ^ nbits)

/-- The operation the decoder reads from a word of the opcode table's numbering. -/
def decodeTableWord (nbits w : Nat) : Option Instr := (decode (tableWord nbits w)).toOption

end Sys2Proof
end

