-- ==== Sys2Proof/Machine/State.lean ====
section
/-! DEFINITION. The state of the block (R22 to R38), what a step can report, and the power-on state (R49, R231). -/

namespace Sys2Proof.Machine

/-- One channel's bank (R22): WIDTH, START, MEAS (1 = Measuring), NEW, SNAP. -/
structure Bank where
  width : Word
  start : Word
  meas : Bool
  new : Bool
  snap : Word
  deriving DecidableEq, Repr

/-- The output registers (R33, R34, R35): OUT_POWER (1 = ON), OUT_DUTY, OUT_R, OUT_G, OUT_B. -/
structure Outputs where
  power : Bool
  duty : Byte
  red : Byte
  green : Byte
  blue : Byte
  deriving DecidableEq, Repr

/-- One record `(c, v)` of the report stream (R37, R146). -/
structure Report where
  chan : Channel
  value : Word
  deriving DecidableEq, Repr

/-- One answer of READ: the register and the value it returned (R147). The model's own record (log 3). -/
structure Response where
  reg : Reg
  value : Word
  deriving DecidableEq, Repr

/-- The operation words each agent will issue next, in its own order (R21, R69). The environment's, not the block's
(log 1). -/
structure Streams where
  e0 : List OpWord
  e1 : List OpWord
  e2 : List OpWord
  consumer : List OpWord
  host : List OpWord
  deriving DecidableEq, Repr

/-- The block's state (R22 to R38), its configuration argument POWER_GUARD (R7, log 5), and the environment's side of
the interface: READ's answers, the agents' streams and the order in which they move (logs 1 and 3). -/
structure State where
  /-- Channel 0, Power. -/
  ch0 : Bank
  /-- Channel 1, Color. -/
  ch1 : Bank
  /-- Channel 2, Brightness. -/
  ch2 : Bank
  out : Outputs
  /-- The report stream, oldest record first (R37). -/
  reports : List Report
  /-- POWER_GUARD (R6): whether channel 0 uses the falling-edge guard. No operation changes it (R51). -/
  powerGuard : Bool
  /-- What READ returned, oldest answer first. -/
  responses : List Response
  streams : Streams
  /-- Which agent moves at each coming step (R69, R205). -/
  schedule : List Agent
  deriving DecidableEq, Repr

/-- The block raises no exception (R200): there is no fault. -/
inductive Fault where
  deriving DecidableEq, Repr

/-- Why a step has no successor. -/
inductive Refusal where
  /-- The instruction has no meaning in this model. Raised by no arm: every operation has one. Safe. -/
  | notModelled (mnemonic : String)
  /-- The word is illegal (R90). Raised by `runWord`, for the word and the reason that R201's mark holds. Safe: no
  claim about a stream that holds an illegal word can be proved (R90, log 7). -/
  | illegalWord (w : OpWord) (reason : IllegalReason)
  deriving DecidableEq, Repr

/-- A bank after reset (R49). -/
def Bank.reset : Bank := ⟨0#32, 0#32, false, false, 0#32⟩

/-- The outputs after reset (R49): OFF, duty 0, RGB (0, 0, 0). -/
def Outputs.reset : Outputs := ⟨false, 0#8, 0#8, 0#8, 0#8⟩

/-- No agent has anything to issue (log 8). -/
def Streams.empty : Streams := ⟨[], [], [], [], []⟩

/-- Power-on with a chosen POWER_GUARD (R7, R49, R50, R231). -/
def State.powerOn (guard : Bool) : State :=
  { ch0 := Bank.reset, ch1 := Bank.reset, ch2 := Bank.reset, out := Outputs.reset, reports := [], powerGuard := guard,
    responses := [], streams := Streams.empty, schedule := [] }

/-- Power-on (R231) with the default POWER_GUARD (R6). -/
def State.reset : State := State.powerOn Config.powerGuardDefault

end Sys2Proof.Machine
end

