-- ==== Sys2Proof/Machine/Ops.lean ====
section
/-! DEFINITION. The named operations over the state: a channel's bank (R22), the report stream (R37), READ's answers,
and the agents' streams. The block takes no exception and returns from none (R200, R207, R208), so there is no such
operation. -/

namespace Sys2Proof.Machine

/-- The bank of channel `c` (R22). -/
def State.bank (s : State) : Channel → Bank
  | .power => s.ch0
  | .color => s.ch1
  | .bright => s.ch2

/-- Write the bank of channel `c`; no operation touches another channel's (R29). -/
def State.setBank (s : State) (c : Channel) (b : Bank) : State :=
  match c with
  | .power => { s with ch0 := b }
  | .color => { s with ch1 := b }
  | .bright => { s with ch2 := b }

/-- `emit Report(c, v)` of R10: append the record to the report stream. -/
def State.emitReport (s : State) (c : Channel) (v : Word) : State := { s with reports := s.reports ++ [⟨c, v⟩] }

/-- Answer a READ: the value returned (R147), recorded in order (log 3). -/
def State.respond (s : State) (r : Reg) (v : Word) : State := { s with responses := s.responses ++ [⟨r, v⟩] }

/-- What an agent will issue next. -/
def State.stream (s : State) : Agent → List OpWord
  | .edge .power => s.streams.e0
  | .edge .color => s.streams.e1
  | .edge .bright => s.streams.e2
  | .consumer => s.streams.consumer
  | .host => s.streams.host

/-- Put other words into an agent's stream. -/
def State.setStream (s : State) (a : Agent) (ws : List OpWord) : State :=
  match a with
  | .edge .power => { s with streams := { s.streams with e0 := ws } }
  | .edge .color => { s with streams := { s.streams with e1 := ws } }
  | .edge .bright => { s with streams := { s.streams with e2 := ws } }
  | .consumer => { s with streams := { s.streams with consumer := ws } }
  | .host => { s with streams := { s.streams with host := ws } }

/-- Say which agents move next. -/
def State.setSchedule (s : State) (l : List Agent) : State := { s with schedule := l }

end Sys2Proof.Machine
end

