-- ==== Sys2Proof/Machine/Agents.lean ====
section
/-! DEFINITION. The agents (R21): what each may issue (R210), how an edge of the line becomes an operation (R202), the
pseudo-operations of R97 and R98 with the reference consumer (R145), and how the next operation reaches the block
(R69). -/

namespace Sys2Proof.Machine

/-- The table of R210: a role, not a check the block makes. -/
def mayIssue : Agent → Instr → Bool
  | .edge c, .rise d _ => decide (c = d)
  | .edge c, .fall d _ => decide (c = d)
  | .consumer, .consume _ => true
  | .consumer, .read _ => true
  | .consumer, .nop => true
  | .host, .reset => true
  | .host, .read _ => true
  | .host, .nop => true
  | _, _ => false

/-- One change of a channel's line: its true time in microseconds and its direction (log 13). -/
structure LineChange where
  time : Nat
  rising : Bool
  deriving DecidableEq, Repr

/-- The time base at a true time (R211): a 32-bit count of microseconds that wraps. -/
def timeBase (t : Nat) : Word := BitVec.ofNat 32 t

/-- What edge source Ec delivers for a change of its line (R202): RISE for low to high, FALL for high to low, `now` the
time base at the change (R212 (b)). -/
def edgeOperation (c : Channel) (e : LineChange) : Instr :=
  if e.rising then .rise c (timeBase e.time) else .fall c (timeBase e.time)

/-- The words edge source Ec issues for its line's changes: each change exactly one operation, in order (R70, R204). -/
def edgeStream (c : Channel) (changes : List LineChange) : List OpWord :=
  changes.map fun e => encode (edgeOperation c e)

/-- The duty of R212 (a) on true times, which no step enforces (log 13): each change is reached from the one before it by
counting forward less than 2^32 µs. -/
def inOrder : List LineChange → Bool
  | [] => true
  | [_] => true
  | e :: f :: rest => decide (e.time ≤ f.time ∧ f.time < e.time + 2 ^ 32) && inOrder (f :: rest)

/-- `pass` (R97): three operations, in channel order. -/
def passOps : List Instr := [.consume .power, .consume .color, .consume .bright]

/-- `pulse c, t0, w` (R98): a RISE at t0 and a FALL at t0 + w mod 2^32. -/
def pulseOps (c : Channel) (t0 w : Word) : List Instr := [.rise c t0, .fall c (t0 + w)]

/-- The first `n` passes of the reference consumer (R145). -/
def referenceConsumer : Nat → List Instr
  | 0 => []
  | n + 1 => passOps ++ referenceConsumer n

/-- The words the reference consumer issues in its first `n` passes (R97, R145). -/
def referenceStream (n : Nat) : List OpWord := (referenceConsumer n).map encode

/-- The next operation word and the state with it taken: the agent the schedule names moves, and issues the first word
of its stream (R69). No word where the schedule is at its end, or its agent has nothing to issue (log 2). -/
def nextOp (s : State) : Option OpWord × State :=
  match s.schedule with
  | [] => (none, s)
  | a :: rest =>
    match s.stream a with
    | [] => (none, s.setSchedule rest)
    | w :: ws => (some w, (s.setSchedule rest).setStream a ws)

/-- An agent whose role is to issue the word (R210); the host for a word of no operation. -/
def issuerOf (w : OpWord) : Agent :=
  match decode w with
  | .ok (.rise c _) => .edge c
  | .ok (.fall c _) => .edge c
  | .ok (.consume _) => .consumer
  | _ => .host

/-- The state in which `w` is the next operation word: first in its issuer's stream, the issuer first in the
schedule. -/
def State.present (s : State) (w : OpWord) : State :=
  (s.setStream (issuerOf w) (w :: s.stream (issuerOf w))).setSchedule (issuerOf w :: s.schedule)

end Sys2Proof.Machine
end

