-- ==== Sys2Proof/Machine/Flags.lean ====
section
/-! DEFINITION. The falling-edge guard (R112), and how NEW and MEAS, the block's only flags (R32), read in CHc_STATUS
(R42). -/

namespace Sys2Proof.Machine

/-- `guarded(c)` of R112: every channel but 0, and channel 0 under POWER_GUARD. -/
def guarded (s : State) (c : Channel) : Bool := decide (c ≠ .power) || s.powerGuard

/-- `accept(c)` of R112. -/
def accept (s : State) (c : Channel) : Bool := !guarded s c || ((s.bank c).meas && !(s.bank c).new)

/-- A bit as a register field: 0 or 1. -/
def bit (b : Bool) : BitVec 1 := BitVec.ofBool b

/-- CHc_STATUS (R42): NEW at bit 0, MEAS at bit 1, the rest 0. -/
def statusWord (b : Bank) : Word := 0#30 ++ bit b.meas ++ bit b.new

end Sys2Proof.Machine
end

