-- ==== Sys2Proof/Machine/Capture.lean ====
section
/-! DEFINITION. The PulseCapture family (R110): RISE and FALL. -/

namespace Sys2Proof.Machine

/-- The bank after RISE (R111): START is `now`, MEAS is 1, WIDTH, NEW and SNAP are kept. -/
def Bank.rise (b : Bank) (now : Word) : Bank := { b with start := now, meas := true }

/-- The bank after an accepted FALL (R113): WIDTH is `now - START` mod 2^32, START 0, MEAS 0, NEW 1. -/
def Bank.fall (b : Bank) (now : Word) : Bank :=
  { b with width := now - b.start, start := 0#32, meas := false, new := true }

/-- RISE c, now (R111): unconditional. -/
def execRise (c : Channel) (now : Word) (s : State) : Host.Outcome State Fault Refusal :=
  .next (s.setBank c ((s.bank c).rise now))

/-- FALL c, now (R113): accepted by the guard of R112 on the state before it, or with no effect at all. -/
def execFall (c : Channel) (now : Word) (s : State) : Host.Outcome State Fault Refusal :=
  if accept s c then .next (s.setBank c ((s.bank c).fall now)) else .next s

end Sys2Proof.Machine
end

