-- ==== Sys2Proof/Machine/Converters.lean ====
section
/-! DEFINITION. The converters (R170 to R179): total functions over the integers, exact, with no state (R180). -/

namespace Sys2Proof.Machine

/-- `floor_div(a, b)` of R9, for `b > 0`. -/
def floorDiv (a b : Int) : Int := a / b

/-- `clamp(v, lo, hi)` of R9. -/
def clamp (v lo hi : Int) : Int := min (max v lo) hi

/-- `clamp8` of R172: saturate into [0, 255]. -/
def clamp8 (v : Int) : Byte := BitVec.ofInt 8 (clamp v 0 Config.outMax)

/-- `lin` of R171: [1000, 2000] onto [0, 255], rounded down, exact for every integer. -/
def lin (w : Int) : Int := floorDiv ((w - Config.inLo) * Config.outMax) (Config.inHi - Config.inLo)

/-- PowerSwitch (R173): ON from 1500 up. -/
def powerSwitch (w : Int) : Bool := decide (Config.pwrThreshold ≤ w)

/-- BrightnessDriver (R174). -/
def brightnessDriver (w : Int) : Byte := clamp8 (lin w)

/-- The hue of ColorMixer (R175). -/
def hue (w : Int) : Byte := clamp8 (lin w)

/-- An RGBValue (R35): r, g, b. -/
structure Rgb where
  r : Byte
  g : Byte
  b : Byte
  deriving DecidableEq, Repr

/-- The three formulas of R176 as exact integers, before they enter an 8-bit register. -/
def rgbExact (h : Int) : Int × Int × Int :=
  if h < Config.hueSeg then (255 - 3 * h, 3 * h, 0)
  else if h < 2 * Config.hueSeg then (0, 255 - 3 * (h - Config.hueSeg), 3 * (h - Config.hueSeg))
  else (3 * (h - 2 * Config.hueSeg), 0, 255 - 3 * (h - 2 * Config.hueSeg))

/-- RGB (R176), each component through the saturating output stage of R179. -/
def rgbOfHue (h : Byte) : Rgb :=
  let v := rgbExact h.toNat
  ⟨clamp8 v.1, clamp8 v.2.1, clamp8 v.2.2⟩

/-- ColorMixer (R177). -/
def colorMixer (w : Int) : Rgb := rgbOfHue (hue w)

end Sys2Proof.Machine
end

