-- ==== Sys2Proof/Machine/Consume.lean ====
section
/-! DEFINITION. CONSUME (R140) with the conversion into the channel's outputs (R141). -/

namespace Sys2Proof.Machine

/-- `Convert(c, s)` of R141 on the outputs: channel c's outputs from the snapshot, the others kept. -/
def convert (c : Channel) (snapshot : Word) (o : Outputs) : Outputs :=
  match c with
  | .power => { o with power := powerSwitch snapshot.toNat }
  | .color =>
    let v := colorMixer snapshot.toNat
    { o with red := v.r, green := v.g, blue := v.b }
  | .bright => { o with duty := brightnessDriver snapshot.toNat }

/-- Write channel c's outputs from a snapshot (R141). -/
def State.convertOut (s : State) (c : Channel) (snapshot : Word) : State := { s with out := convert c snapshot s.out }

/-- The bank after an effective CONSUME (R140): SNAP is the WIDTH, NEW is 0. -/
def Bank.consume (b : Bank) : Bank := { b with snap := b.width, new := false }

/-- CONSUME c (R140): one transition with a new value, none of its effects without (R142). -/
def execConsume (c : Channel) (s : State) : Host.Outcome State Fault Refusal :=
  if (s.bank c).new then
    .next (((s.setBank c (s.bank c).consume).convertOut c (s.bank c).width).emitReport c (s.bank c).width)
  else .next s

end Sys2Proof.Machine
end

