-- ==== Sys2Proof/Machine/Operands.lean ====
section
/-! DEFINITION. The registers of the map as READ sees them (R39 to R48): each is computed from the state. -/

namespace Sys2Proof.Machine

/-- CONFIG (R44): N_CH at 23:16, TS_W at 15:8, POWER_GUARD at 0, the rest 0. -/
def configWord (guard : Bool) : Word :=
  0#8 ++ BitVec.ofNat 8 Config.nCh ++ BitVec.ofNat 8 Config.tsW ++ 0#7 ++ bit guard

/-- OUT_POWER_R (R45). -/
def outPowerWord (o : Outputs) : Word := 0#31 ++ bit o.power

/-- OUT_DUTY_R (R46). -/
def outDutyWord (o : Outputs) : Word := 0#24 ++ o.duty

/-- OUT_RGB_R (R47). -/
def outRgbWord (o : Outputs) : Word := 0#8 ++ o.red ++ o.green ++ o.blue

/-- `MemRead(i, 4)` of R61, `i` naming the register `r`: the register's whole value in this state. -/
def memRead (s : State) : Reg → Word
  | .width c => (s.bank c).width
  | .start c => (s.bank c).start
  | .status c => statusWord (s.bank c)
  | .snap c => (s.bank c).snap
  | .outPower => outPowerWord s.out
  | .outDuty => outDutyWord s.out
  | .outRgb => outRgbWord s.out
  | .config => configWord s.powerGuard

end Sys2Proof.Machine
end

