-- ==== Sys2Proof/Machine/System.lean ====
section
/-! DEFINITION. READ (R147), NOP (R148) and RESET (R230). -/

namespace Sys2Proof.Machine

/-- READ r (R147): answers the register's value; the block's state is unchanged (R61). -/
def execRead (r : Reg) (s : State) : Host.Outcome State Fault Refusal := .next (s.respond r (memRead s r))

/-- NOP (R148). -/
def execNop (s : State) : Host.Outcome State Fault Refusal := .next s

/-- RESET (R230): the banks and outputs of R49; the report stream, POWER_GUARD and the environment's side are
kept, READ's answers among it (log 4). -/
def execReset (s : State) : Host.Outcome State Fault Refusal :=
  .next { s with ch0 := Bank.reset, ch1 := Bank.reset, ch2 := Bank.reset, out := Outputs.reset }

end Sys2Proof.Machine
end

