-- ==== Sys2Proof/Machine/Dispatch.lean ====
section
/-! DEFINITION. One arm for each operation (R82). -/

namespace Sys2Proof.Machine

def exec (i : Instr) (s : State) : Host.Outcome State Fault Refusal :=
  match i with
  | .nop => Sys2Proof.Machine.execNop s
  | .rise c now => Sys2Proof.Machine.execRise c now s
  | .fall c now => Sys2Proof.Machine.execFall c now s
  | .consume c => Sys2Proof.Machine.execConsume c s
  | .read r => Sys2Proof.Machine.execRead r s
  | .reset => Sys2Proof.Machine.execReset s

end Sys2Proof.Machine
end

