-- ==== Sys2Proof/Machine/Step.lean ====
section
/-! DEFINITION. One step: one operation of the total order (R66, R69), or a refusal (R201). -/

namespace Sys2Proof.Machine

/-- Perform a word: its operation, or the refusal that holds the word and its reason (R201). -/
def runWord (w : OpWord) (s : State) : Host.Outcome State Fault Refusal :=
  match decode w with
  | .ok i => exec i s
  | .error r => .refused (.illegalWord w r)

/-- One step: the next operation is performed whole; with none, the state is held (log 2). -/
def step (s : State) : Host.Outcome State Fault Refusal :=
  match (nextOp s).1 with
  | none => .next (nextOp s).2
  | some w => runWord w (nextOp s).2

/-- The state in which the next step runs the word (log 9). -/
def State.withFetchWord (s : State) (nbits w : Nat) : State := s.present (tableWord nbits w)

end Sys2Proof.Machine
end

