-- ==== Sys2Proof/Machine/Asm.lean ====
section
/-! DEFINITION. The assembler syntax (R94 to R99): a line of text to the operations it stands for, or a refusal by
name. What R94 leaves open about white space and letters of hex digits is log 10. -/

namespace Sys2Proof.Machine

/-- Why the assembler refuses a line (R99; it then makes no word). -/
inductive AsmError where
  | unknownMnemonic
  | wrongOperandCount
  | badChannel
  | badRegister
  | badNumber
  /-- A number of 2^32 or more: refused, never reduced (R99). -/
  | numberTooLarge
  deriving DecidableEq, Repr

/-- White space inside a line. -/
def isBlank (c : Char) : Bool := c == ' ' || c == '\t' || c == '\r'

/-- A text without the white space at its two ends. -/
def trim (l : List Char) : List Char := ((l.dropWhile isBlank).reverse.dropWhile isBlank).reverse

/-- The pieces of a text between separators. -/
def splitAt (sep : Char) : List Char → List (List Char)
  | [] => [[]]
  | c :: cs =>
    if c == sep then [] :: splitAt sep cs
    else
      match splitAt sep cs with
      | [] => [[c]]
      | p :: ps => (c :: p) :: ps

/-- The operands of a line, separated by commas (R94). -/
def operandsOf (l : List Char) : List String :=
  if trim l = [] then [] else (splitAt ',' l).map fun p => String.ofList (trim p)

/-- `<ch>` (R95). -/
def channelNames : List (String × Channel) :=
  [("power", .power), ("color", .color), ("bright", .bright), ("0", .power), ("1", .color), ("2", .bright)]

/-- `<reg>` by name: the index of its position, 0 to 15 (R96). -/
def registerNames : List String :=
  ["ch0.width", "ch0.start", "ch0.status", "ch0.snap", "ch1.width", "ch1.start", "ch1.status", "ch1.snap"] ++
    ["ch2.width", "ch2.start", "ch2.status", "ch2.snap", "out.power", "out.duty", "out.rgb", "config"]

/-- `<reg>` by number: r0 to r15 (R96). -/
def registerNumbers : List String :=
  ["r0", "r1", "r2", "r3", "r4", "r5", "r6", "r7"] ++ ["r8", "r9", "r10", "r11", "r12", "r13", "r14", "r15"]

/-- The value of a digit. -/
def digitValue (c : Char) : Option Nat :=
  if '0' ≤ c ∧ c ≤ '9' then some (c.toNat - 48)
  else if 'a' ≤ c ∧ c ≤ 'f' then some (c.toNat - 87)
  else if 'A' ≤ c ∧ c ≤ 'F' then some (c.toNat - 55)
  else none

/-- The number that digits of a base write after the digits already read. -/
def digitsValue (base : Nat) : Nat → List Char → Option Nat
  | n, [] => some n
  | n, c :: cs =>
    match digitValue c with
    | some d => if d < base then digitsValue base (base * n + d) cs else none
    | none => none

/-- A number of one digit or more, in [0, 2^32) (R99). -/
def numberOf (base : Nat) (l : List Char) : Except AsmError Word :=
  if l = [] then .error .badNumber
  else
    match digitsValue base 0 l with
    | none => .error .badNumber
    | some n => if n < 2 ^ 32 then .ok (BitVec.ofNat 32 n) else .error .numberTooLarge

/-- A numeric operand (R99): hex after `0x`, else decimal. -/
def parseNumber (o : String) : Except AsmError Word :=
  match o.toList with
  | '0' :: 'x' :: ds => numberOf 16 ds
  | ds => numberOf 10 ds

/-- A channel operand (R95). -/
def parseChannel (o : String) : Except AsmError Channel :=
  match channelNames.lookup o with
  | some c => .ok c
  | none => .error .badChannel

/-- A register operand (R96). -/
def parseRegister (o : String) : Except AsmError Reg :=
  match registerNames.idxOf? o, registerNumbers.idxOf? o with
  | some k, _ => .ok (Reg.ofIndex (BitVec.ofNat 4 k))
  | none, some k => .ok (Reg.ofIndex (BitVec.ofNat 4 k))
  | none, none => .error .badRegister

/-- `rise` and `fall`: a channel and a number (R94). -/
def assembleEdge (op : Channel → Word → Instr) : List String → Except AsmError (List Instr)
  | [c, t] =>
    match parseChannel c, parseNumber t with
    | .error e, _ => .error e
    | _, .error e => .error e
    | .ok ch, .ok now => .ok [op ch now]
  | _ => .error .wrongOperandCount

/-- `pulse`: a channel and two numbers (R98). -/
def assemblePulse : List String → Except AsmError (List Instr)
  | [c, t, w] =>
    match parseChannel c, parseNumber t, parseNumber w with
    | .error e, _, _ => .error e
    | _, .error e, _ => .error e
    | _, _, .error e => .error e
    | .ok ch, .ok t0, .ok len => .ok (pulseOps ch t0 len)
  | _ => .error .wrongOperandCount

/-- `consume`: a channel (R94). -/
def assembleConsume : List String → Except AsmError (List Instr)
  | [c] =>
    match parseChannel c with
    | .error e => .error e
    | .ok ch => .ok [.consume ch]
  | _ => .error .wrongOperandCount

/-- `read`: a register (R94). -/
def assembleRead : List String → Except AsmError (List Instr)
  | [r] =>
    match parseRegister r with
    | .error e => .error e
    | .ok reg => .ok [.read reg]
  | _ => .error .wrongOperandCount

/-- A form with no operand (R94, R97). -/
def assemblePlain (ops : List Instr) : List String → Except AsmError (List Instr)
  | [] => .ok ops
  | _ => .error .wrongOperandCount

/-- A mnemonic with its operands (R94, R97, R98). -/
def assembleForm (mnemonic : String) (ops : List String) : Except AsmError (List Instr) :=
  if mnemonic = "nop" then assemblePlain [.nop] ops
  else if mnemonic = "rise" then assembleEdge .rise ops
  else if mnemonic = "fall" then assembleEdge .fall ops
  else if mnemonic = "consume" then assembleConsume ops
  else if mnemonic = "read" then assembleRead ops
  else if mnemonic = "reset" then assemblePlain [.reset] ops
  else if mnemonic = "pass" then assemblePlain passOps ops
  else if mnemonic = "pulse" then assemblePulse ops
  else .error .unknownMnemonic

/-- One line without its line break: the text before `;` (R94), its first word the mnemonic. A line with nothing before
`;` stands for no operation. -/
def assembleChars (l : List Char) : Except AsmError (List Instr) :=
  let text := trim (l.takeWhile fun c => c != ';')
  if text = [] then .ok []
  else assembleForm (String.ofList (text.takeWhile fun c => !isBlank c)) (operandsOf (text.dropWhile fun c => !isBlank c))

/-- One line (R94). -/
def assembleLine (line : String) : Except AsmError (List Instr) := assembleChars line.toList

/-- Lines in order, refused at the first refused line. -/
def assembleLines : List (List Char) → Except AsmError (List Instr)
  | [] => .ok []
  | l :: ls =>
    match assembleChars l, assembleLines ls with
    | .error e, _ => .error e
    | _, .error e => .error e
    | .ok is, .ok js => .ok (is ++ js)

/-- A program: one operation a line (R94). -/
def assemble (src : String) : Except AsmError (List Instr) := assembleLines (splitAt '\n' src.toList)

end Sys2Proof.Machine
end

