-- ==== Sys2Proof/Machine/Text.lean ====
section
/-! DEFINITION. The diagnostic text of the report stream (R11, R146). -/

namespace Sys2Proof.Machine

/-- The label of a channel (R11). -/
def label : Channel → String
  | .power => "Power"
  | .color => "Color"
  | .bright => "Bright"

/-- `decimal` of R146: base 10, digits only, no leading zeros. -/
def decimal (v : Word) : String := String.ofList (Nat.toDigits 10 v.toNat)

/-- `line(c, s)` of R146, the terminator an argument (R7). -/
def reportLine (eol : String) (r : Report) : String := label r.chan ++ " PWM: " ++ decimal r.value ++ eol

/-- The text of a list of records, oldest first. R146 gives the line of one record and D19 does not settle how the lines
are grouped: that they follow one another with nothing between lines or passes is the model's choice (log 15). -/
def reportText (eol : String) : List Report → String
  | [] => ""
  | r :: rs => reportLine eol r ++ reportText eol rs

/-- The diagnostic stream of a block, with its REPORT_EOL (R37, R146, log 6). -/
def State.diagnostics (s : State) : String := reportText Config.reportEol s.reports

end Sys2Proof.Machine
end

