-- ==== Sys2Proof/Safety.lean ====
section
/-! DEFINITION. The words claims are made in: running operations in order (R69), what each agent issued, what a state
shares with another, and the invariants of the block. -/

namespace Sys2Proof

/-- An operation that names channel `c` (R29): its RISE, its FALL, its CONSUME. -/
def Instr.onChannel (c : Channel) : Instr → Bool
  | .rise d _ => decide (d = c)
  | .fall d _ => decide (d = c)
  | .consume d => decide (d = c)
  | _ => false

/-- A RISE or a FALL of channel `c` (R110). -/
def Instr.isEdgeOf (c : Channel) : Instr → Bool
  | .rise d _ => decide (d = c)
  | .fall d _ => decide (d = c)
  | _ => false

/-- A FALL of channel `c`. -/
def Instr.isFallOf (c : Channel) : Instr → Bool
  | .fall d _ => decide (d = c)
  | _ => false

end Sys2Proof

namespace Sys2Proof.Machine

/-- Perform operations in order (R69), stopping at the first fault or refusal. -/
def execAll : List Instr → State → Host.Outcome State Fault Refusal
  | [], s => .next s
  | i :: is, s =>
    match exec i s with
    | .next t => execAll is t
    | .fault f => .fault f
    | .refused r => .refused r

/-- `n` steps (R69), stopping at the first fault or refusal; `Host.Core.run` of this machine (`runSteps_eq_core`). -/
def runSteps : Nat → State → Host.Outcome State Fault Refusal
  | 0, s => .next s
  | n + 1, s =>
    match step s with
    | .next t => runSteps n t
    | .fault f => .fault f
    | .refused r => .refused r

/-- The word the next step performs with the agent that issues it, if any. -/
def nextIssue (s : State) : Option (Agent × OpWord) :=
  match s.schedule with
  | [] => none
  | a :: _ =>
    match s.stream a with
    | [] => none
    | w :: _ => some (a, w)

/-- What the agents issue in `n` steps, in the order in which the block performs it. -/
def issued : Nat → State → List (Agent × OpWord)
  | 0, _ => []
  | n + 1, s =>
    match step s with
    | .next t => (nextIssue s).toList ++ issued n t
    | .fault _ => (nextIssue s).toList
    | .refused _ => (nextIssue s).toList

/-- The words of one agent in a list of issued words. -/
def wordsOf (a : Agent) (l : List (Agent × OpWord)) : List OpWord := (l.filter fun p => p.1 == a).map Prod.snd

/-- Two states have the same configuration and the same environment's side, READ's answers apart. -/
def State.sameEnvironment (s t : State) : Prop :=
  t.powerGuard = s.powerGuard ∧ t.streams = s.streams ∧ t.schedule = s.schedule

/-- The outputs bound to channel `c` (R20), in the order of that table. -/
def Outputs.boundTo (o : Outputs) : Channel → List (BitVec 8)
  | .power => [(bit o.power).setWidth 8]
  | .color => [o.red, o.green, o.blue]
  | .bright => [o.duty]

/-- The values reported for channel `c`, oldest first (R37). -/
def State.reportsOf (s : State) (c : Channel) : List Word := (s.reports.filter fun r => r.chan == c).map Report.value

/-- The width of channel `c` that waits for a CONSUME, if there is one (R26). -/
def State.pending (s : State) (c : Channel) : List Word := if (s.bank c).new then [(s.bank c).width] else []

/-- The widths that the accepted FALLs of channel `c` write while operations run, in order (R113). -/
def acceptedWidths (c : Channel) : List Instr → State → List Word
  | [], _ => []
  | i :: is, s =>
    match exec i s with
    | .next t => (if i.isFallOf c && accept s c then [(t.bank c).width] else []) ++ acceptedWidths c is t
    | .fault _ => []
    | .refused _ => []

/-- While operations run, no FALL of channel `c` is accepted. -/
def noAcceptedFall (c : Channel) : List Instr → State → Prop
  | [], _ => True
  | i :: is, s =>
    (i.isFallOf c = true → accept s c = false) ∧ ∀ t, exec i s = .next t → noAcceptedFall c is t

/-- Every word the agents will issue is legal (R90). -/
def State.legalStreams (s : State) : Prop := ∀ a : Agent, ∀ w ∈ s.stream a, ∃ i : Instr, decode w = .ok i

/-- Every legal word in an agent's stream is of that agent's role (R210). -/
def State.rolesKept (s : State) : Prop :=
  ∀ a : Agent, ∀ w ∈ s.stream a, ∀ i : Instr, decode w = .ok i → mayIssue a i = true

/-- R30: an Idle channel's START is 0. -/
def State.idleStartsZero (s : State) : Prop := ∀ c : Channel, (s.bank c).meas = false → (s.bank c).start = 0#32

/-- The outputs show the conversion of the snapshots (R27, R141), or for colour the reset value before any CONSUME
since reset (R49). OUT_POWER and OUT_DUTY need no second case: 0 converts to OFF and to 0. -/
def State.outputsShowSnapshots (s : State) : Prop :=
  s.out.power = powerSwitch ((s.bank .power).snap.toNat : Int) ∧
    s.out.duty = brightnessDriver ((s.bank .bright).snap.toNat : Int) ∧
    ((⟨s.out.red, s.out.green, s.out.blue⟩ : Rgb) = colorMixer ((s.bank .color).snap.toNat : Int) ∨
      ((s.bank .color).snap = 0#32 ∧ s.out.red = 0#8 ∧ s.out.green = 0#8 ∧ s.out.blue = 0#8))

/-- A run meets no illegal word: what makes it safe to go on for ever (R200, R201). -/
def Safe (s : State) : Prop := ∀ n : Nat, ∃ t : State, runSteps n s = .next t

end Sys2Proof.Machine
end

