-- ==== Sys2Proof/Certificates/Slice0/Obligations.lean ====
section
/-! DEFINITION. The statements for the provers. Each docstring names the rules it formalises. -/

open Sys2Proof Sys2Proof.Machine

/-! ## Encoding (30_encoding.md) -/

/-- The words that 30_encoding.md writes out (R87, R88, R89) and two it refuses (R90) decode as it says. -/
def Obligations.SpecWordsDecode : Prop :=
  decode 0x0000000000#40 = .ok .nop ∧
  decode 0x10000003E8#40 = .ok (.rise .power 1000#32) ∧
  decode 0x2100000834#40 = .ok (.fall .color 2100#32) ∧
  decode 0x12FFFFFF00#40 = .ok (.rise .bright 0xFFFFFF00#32) ∧
  decode 0x3200000000#40 = .ok (.consume .bright) ∧
  decode 0x4E00000000#40 = .ok (.read .outRgb) ∧
  decode 0x5000000000#40 = .ok .reset ∧
  decode 0x13000003E8#40 = .error .noSuchChannel ∧
  decode 0x5100000000#40 = .error .nonzeroReserved

/-- R87, R88 and R89: the word of each operation, field by field, the numbers of the channels (R83) and of the registers
(R84, R39); and every operation, with every operand at every value, is what its own word decodes to. -/
def Obligations.DecodeOfEncodeIsTheOperation : Prop :=
  (∀ i : Instr, decode (encode i) = .ok i) ∧
  encode .nop = 0x0000000000#40 ∧
  (∀ (c : Channel) (now : Word), encode (.rise c now) = (0x1#4 ++ 0b00#2 ++ c.number ++ now : BitVec 40)) ∧
  (∀ (c : Channel) (now : Word), encode (.fall c now) = (0x2#4 ++ 0b00#2 ++ c.number ++ now : BitVec 40)) ∧
  (∀ c : Channel, encode (.consume c) = (0x3#4 ++ 0b00#2 ++ c.number ++ 0#32 : BitVec 40)) ∧
  (∀ n : BitVec 4, encode (.read (Reg.ofIndex n)) = (0x4#4 ++ n ++ 0#32 : BitVec 40)) ∧
  encode .reset = 0x5000000000#40 ∧
  Channel.power.number = 0#2 ∧ Channel.color.number = 1#2 ∧ Channel.bright.number = 2#2

/-- R92: every legal word names exactly one operation, every other word is illegal, and the opcodes from 0x6 up are
refused. -/
def Obligations.LegalWordsNameExactlyOneOperation : Prop :=
  (∀ (w : OpWord) (i : Instr), decode w = .ok i ↔ encode i = w) ∧
  (∀ w : OpWord, OpWord.wellFormed w = true ↔ ∃! i : Instr, decode w = .ok i) ∧
  (∀ w : OpWord, 6 ≤ (w.extractLsb' 36 4).toNat → decode w = .error .reservedOpcode)

/-- R90: a word is refused exactly when one of (a) to (e) holds, for the first of them that does; it has no effect in any
state, and the refusal is kept for the whole run. -/
def Obligations.IllegalWordIsRefusedForItsFirstCase : Prop :=
  (∀ w : OpWord, firstIllegal w = none ↔ OpWord.wellFormed w = true) ∧
  (∀ (w : OpWord) (r : IllegalReason), decode w = .error r ↔ firstIllegal w = some r) ∧
  (∀ (w : OpWord) (r : IllegalReason) (s : State), firstIllegal w = some r →
    runWord w s = .refused (.illegalWord w r)) ∧
  (∀ (a : Agent) (w : OpWord) (r : IllegalReason) (s : State) (n : Nat), nextIssue s = some (a, w) →
    firstIllegal w = some r → runSteps (n + 1) s = .refused (.illegalWord w r))

/-- Two rows of the opcode table that fit one word, legal or not, are the same row; a decoded word fits its own row; and a
word that fits a row is legal unless its CH is 11. -/
def Obligations.OpcodeTableRowsAgreeWithDecode : Prop :=
  (∀ (w : OpWord) (i : Instr), decode w = .ok i →
    i.row ∈ opcodeTable ∧ i.row.fits w = true ∧ ∀ row ∈ opcodeTable, row.fits w = true → row = i.row) ∧
  (∀ (w : OpWord) (row row' : OpRow), row ∈ opcodeTable → row' ∈ opcodeTable → row.fits w = true →
    row'.fits w = true → row = row') ∧
  (∀ (w : OpWord) (row : OpRow), row ∈ opcodeTable → row.fits w = true →
    (∃ i : Instr, decode w = .ok i) ∨ decode w = .error .noSuchChannel)

/-- On a transport (R62) byte k of a word or of a register value is its bits 8k + 7 to 8k, and the five bytes of an
operation decode to it, with what follows left over. That fewer than five bytes are reported as truncated is the
model's choice (log 11), no rule of the spec. -/
def Obligations.TransportSendsLeastSignificantByteFirst : Prop :=
  (∀ (w : OpWord) (k : Nat), k < 5 → ((wordBytes w)[k]?.map BitVec.toNat) = some (w.toNat / 256 ^ k % 256)) ∧
  (∀ (v : Word) (k : Nat), k < 4 → ((registerBytes v)[k]?.map BitVec.toNat) = some (v.toNat / 256 ^ k % 256)) ∧
  (∀ (i : Instr) (rest : List Byte), decodeBytes (wordBytes (encode i) ++ rest) = .ok (i, rest)) ∧
  (∀ l : List Byte, l.length < 5 → decodeBytes l = .error .truncated)

/-! ## One step (20_memory.md, 60_exceptions.md) -/

/-- When the agent the schedule names has a legal word to issue, a step performs that word's operation on the state
with the word taken, whichever agent it is. The second clause, that a word presented by `withFetchWord` is the one the
next step runs, is about the model's choice of how a program comes to run (log 9), no rule of the spec. -/
def Obligations.StepPerformsTheDecodedOperation : Prop :=
  (∀ (s : State) (a : Agent) (rest : List Agent) (w : OpWord) (ws : List OpWord) (i : Instr),
    s.schedule = a :: rest → s.stream a = w :: ws → decode w = .ok i →
    step s = exec i ((s.setSchedule rest).setStream a ws)) ∧
  (∀ (s : State) (i : Instr), step (s.withFetchWord 40 (encode i).toNat) = exec i s)

/-- R201: only illegal words are without meaning; the refusal holds the word and its reason, and the run never goes on
from it. -/
def Obligations.OnlyIllegalWordsEndARun : Prop :=
  (∀ (s : State) (q : Refusal), step s = .refused q ↔
    ∃ (a : Agent) (w : OpWord) (r : IllegalReason),
      nextIssue s = some (a, w) ∧ decode w = .error r ∧ q = .illegalWord w r) ∧
  (∀ (s : State) (q : Refusal), step s = .refused q → ∀ n : Nat, runSteps (n + 1) s = .refused q)

/-- Agents that issue legal words only: every step goes on, keeps them so, and the block runs for ever. -/
def Obligations.LegalStreamsRunForEver : Prop :=
  (∀ s : State, s.legalStreams → ∃ t : State, step s = .next t ∧ t.legalStreams) ∧
  (∀ s : State, s.legalStreams → Safe s)

/-- Every operation with every operand completes in every state: nothing raises an exception. -/
def Obligations.EveryOperationCompletes : Prop :=
  ∀ (i : Instr) (s : State), ∃ t : State, exec i s = .next t

/-- The model's choice (log 2): with no agent to move nothing changes, and an agent with nothing to issue only uses up
its turn. -/
def Obligations.NothingIssuedNothingChanges : Prop :=
  (∀ s : State, s.schedule = [] → step s = .next s) ∧
  (∀ (s : State) (a : Agent) (rest : List Agent), s.schedule = a :: rest → s.stream a = [] →
    step s = .next { s with schedule := rest })

/-! ## Ordering (20_memory.md) -/

/-- Each agent's operations are performed in the order it issues them: what it issued, then what it still has, is what
it had. -/
def Obligations.AgentOrderIsKept : Prop :=
  ∀ (n : Nat) (s t : State), runSteps n s = .next t →
    ∀ a : Agent, wordsOf a (issued n s) ++ t.stream a = s.stream a

/-- A run is one total order of operations: its end state is that of the issued operations performed one after another,
the agents' side apart. -/
def Obligations.RunIsATotalOrderOfOperations : Prop :=
  ∀ (n : Nat) (s t : State), runSteps n s = .next t →
    ∃ (ops : List Instr) (u : State),
      (issued n s).map (fun p => decode p.2) = ops.map Except.ok ∧
      execAll ops s = .next u ∧ t = { u with streams := t.streams, schedule := t.schedule }

/-- Any interleaving of the agents' streams is admitted: every order of legal words by any agents is what some streams
and schedule issue, from any state of the block. -/
def Obligations.EveryInterleavingIsAdmitted : Prop :=
  ∀ (l : List (Agent × OpWord)) (s : State), (∀ p ∈ l, ∃ i : Instr, decode p.2 = .ok i) →
    ∃ q : Streams,
      issued l.length { s with streams := q, schedule := l.map Prod.fst } = l ∧
      ∃ t : State, runSteps l.length { s with streams := q, schedule := l.map Prod.fst } = .next t

/-! ## Reset (70_reset_and_hazards.md) -/

/-- R230: RESET, the word 0x5000000000, puts every bank and output register at 0, whatever the state was; CONFIG,
POWER_GUARD and the report stream are kept. -/
def Obligations.ResetPutsTheBlockInItsResetState : Prop :=
  encode .reset = 0x5000000000#40 ∧
  ∀ s : State, ∃ t : State, exec .reset s = .next t ∧
    (∀ c : Channel, (t.bank c).width = 0#32 ∧ (t.bank c).start = 0#32 ∧ (t.bank c).meas = false ∧
      (t.bank c).new = false ∧ (t.bank c).snap = 0#32) ∧
    t.out.power = false ∧ t.out.duty = 0#8 ∧ t.out.red = 0#8 ∧ t.out.green = 0#8 ∧ t.out.blue = 0#8 ∧
    memRead t .config = memRead s .config ∧ t.reports = s.reports ∧ s.sameEnvironment t

/-- R49 and R50: at power-on every state element is 0 and the report stream is empty, for both values of POWER_GUARD;
a later RESET removes no record; the model starts with the default POWER_GUARD. -/
def Obligations.PowerOnStateIsAllZero : Prop :=
  (∀ (g : Bool) (c : Channel), ((State.powerOn g).bank c).width = 0#32 ∧ ((State.powerOn g).bank c).start = 0#32 ∧
    ((State.powerOn g).bank c).meas = false ∧ ((State.powerOn g).bank c).new = false ∧
    ((State.powerOn g).bank c).snap = 0#32) ∧
  (∀ g : Bool, (State.powerOn g).out.power = false ∧ (State.powerOn g).out.duty = 0#8 ∧
    (State.powerOn g).out.red = 0#8 ∧ (State.powerOn g).out.green = 0#8 ∧ (State.powerOn g).out.blue = 0#8 ∧
    (State.powerOn g).reports = []) ∧
  memRead (State.powerOn false) .config = 0x00032000#32 ∧ memRead (State.powerOn true) .config = 0x00032001#32 ∧
  (∀ s t : State, exec .reset s = .next t →
    (∀ c : Channel, t.bank c = (State.powerOn s.powerGuard).bank c) ∧
    t.out = (State.powerOn s.powerGuard).out ∧ memRead t .config = memRead s .config ∧ t.reports = s.reports) ∧
  State.reset = State.powerOn false

/-- The first edge after reset may be a FALL (R236): unguarded channel 0 takes the raw timestamp as a width, and the
next CONSUME 0 switches on it; every guarded channel rejects the edge. -/
def Obligations.FirstFallAfterReset : Prop :=
  (∀ now : Word, ∃ t u : State, exec (.fall .power now) (State.powerOn false) = .next t ∧
    (t.bank .power).width = now ∧ (t.bank .power).new = true ∧ exec (.consume .power) t = .next u ∧
    (u.out.power = true ↔ 1500 ≤ now.toNat)) ∧
  (∀ (g : Bool) (c : Channel) (now : Word), (c ≠ .power ∨ g = true) →
    exec (.fall c now) (State.powerOn g) = .next (State.powerOn g))

/-! ## Capture (40_capture.md) -/

/-- R111: RISE c, now sets START[c] to `now` and MEAS[c] to 1 in every state, and changes nothing else; its word. -/
def Obligations.RiseStartsAMeasurement : Prop :=
  (∀ (c : Channel) (now : Word), encode (.rise c now) = (0x1#4 ++ 0b00#2 ++ c.number ++ now : BitVec 40)) ∧
  ∀ (c : Channel) (now : Word) (s : State), ∃ t : State, exec (.rise c now) s = .next t ∧
    (t.bank c).start = now ∧ (t.bank c).meas = true ∧ (t.bank c).width = (s.bank c).width ∧
    (t.bank c).new = (s.bank c).new ∧ (t.bank c).snap = (s.bank c).snap ∧
    (∀ d : Channel, d ≠ c → t.bank d = s.bank d) ∧
    t.out = s.out ∧ t.reports = s.reports ∧ t.responses = s.responses ∧ s.sameEnvironment t

/-- R112 and R113: FALL c, now, accepted by the guard, records the modular width, returns to Idle and sets NEW, changing
nothing else; rejected, it changes nothing; its word. -/
def Obligations.FallRecordsTheWidthOrIsRejected : Prop :=
  (∀ (c : Channel) (now : Word), encode (.fall c now) = (0x2#4 ++ 0b00#2 ++ c.number ++ now : BitVec 40)) ∧
  ∀ (c : Channel) (now : Word) (s : State),
    (((c = .power ∧ s.powerGuard = false) ∨ ((s.bank c).meas = true ∧ (s.bank c).new = false)) →
      ∃ t : State, exec (.fall c now) s = .next t ∧
        (t.bank c).width.toNat = (now.toNat + 2 ^ 32 - (s.bank c).start.toNat) % 2 ^ 32 ∧
        (t.bank c).start = 0#32 ∧ (t.bank c).meas = false ∧ (t.bank c).new = true ∧
        (t.bank c).snap = (s.bank c).snap ∧ (∀ d : Channel, d ≠ c → t.bank d = s.bank d) ∧
        t.out = s.out ∧ t.reports = s.reports ∧ t.responses = s.responses ∧ s.sameEnvironment t) ∧
    (¬((c = .power ∧ s.powerGuard = false) ∨ ((s.bank c).meas = true ∧ (s.bank c).new = false)) →
      exec (.fall c now) s = .next s)

/-- R114: a FALL 0 that finds channel 0 Idle records its own timestamp where channel 0 is unguarded (START is 0 there,
by the invariant of R30), and is rejected under POWER_GUARD. -/
def Obligations.IdleFallOnChannelZero : Prop :=
  ∀ (now : Word) (s : State), s.idleStartsZero → (s.bank .power).meas = false →
    (s.powerGuard = false → ∃ t : State, exec (.fall .power now) s = .next t ∧
      (t.bank .power).width = now ∧ (t.bank .power).new = true) ∧
    (s.powerGuard = true → exec (.fall .power now) s = .next s)

/-- R115: whatever runs between a RISE c, t0 and an accepted FALL c, t1, other than an edge of c or a RESET, the width is
t1 - t0 mod 2^32; so with t1 = t0 + w it is exactly w. -/
def Obligations.CapturedWidthIsExact : Prop :=
  ∀ (c : Channel) (t0 t1 : Word) (l : List Instr) (s : State),
    (∀ i ∈ l, i.isEdgeOf c = false ∧ i ≠ .reset) →
    ∃ u : State, execAll (.rise c t0 :: l) s = .next u ∧
      (accept u c = true → ∃ t : State, exec (.fall c t1) u = .next t ∧ (t.bank c).width = t1 - t0 ∧
        (t.bank c).new = true ∧ ∀ w : Word, t1 = t0 + w → (t.bank c).width = w)

/-- R238 over the true times of the line's changes: a pulse from time a to time b is recorded as its length mod 2^32,
whatever runs between its edges, other than an edge of its channel or a RESET. -/
def Obligations.WidthIsTheTrueLengthModuloTheTimeBase : Prop :=
  ∀ (c : Channel) (a b : Nat) (l : List Instr) (s u : State), a ≤ b →
    (∀ i ∈ l, i.isEdgeOf c = false ∧ i ≠ .reset) →
    execAll (edgeOperation c ⟨a, true⟩ :: l) s = .next u → accept u c = true →
    ∃ t : State, exec (edgeOperation c ⟨b, false⟩) u = .next t ∧ (t.bank c).width.toNat = (b - a) % 2 ^ 32

/-- R116: on a guarded channel with NEW set every FALL is rejected, and the unconsumed width stays, with NEW, through
everything but a CONSUME of the channel or a RESET; on unguarded channel 0 a FALL overwrites it, NEW stays, and it is
the new width that a CONSUME then takes. -/
def Obligations.UnconsumedWidths : Prop :=
  (∀ (c : Channel) (now : Word) (s : State), (c ≠ .power ∨ s.powerGuard = true) → (s.bank c).new = true →
    exec (.fall c now) s = .next s) ∧
  (∀ (c : Channel) (l : List Instr) (s t : State), (c ≠ .power ∨ s.powerGuard = true) → (s.bank c).new = true →
    (∀ i ∈ l, i ≠ .consume c ∧ i ≠ .reset) → execAll l s = .next t →
    (t.bank c).width = (s.bank c).width ∧ (t.bank c).new = true) ∧
  (∀ (now : Word) (s : State), s.powerGuard = false → (s.bank .power).new = true →
    ∃ t u : State, exec (.fall .power now) s = .next t ∧
      (t.bank .power).width = now - (s.bank .power).start ∧ (t.bank .power).new = true ∧
      exec (.consume .power) t = .next u ∧ (u.bank .power).snap = now - (s.bank .power).start)

/-- There is no timeout (R117): after a RISE c the channel stays Measuring, with its width, through everything but a FALL
c or a RESET. -/
def Obligations.MeasuringHasNoTimeout : Prop :=
  ∀ (c : Channel) (now : Word) (l : List Instr) (s : State), (∀ i ∈ l, i.isFallOf c = false ∧ i ≠ .reset) →
    ∃ t : State, execAll (.rise c now :: l) s = .next t ∧
      (t.bank c).meas = true ∧ (t.bank c).width = (s.bank c).width

/-- R118: edge operations on distinct channels commute, and what edges of all channels leave in a bank is what that
channel's own edges leave there, however they interleave. -/
def Obligations.EdgesOnDistinctChannelsAreIsolated : Prop :=
  (∀ (c d : Channel) (i j : Instr) (s : State), c ≠ d → i.isEdgeOf c = true → j.isEdgeOf d = true →
    execAll [i, j] s = execAll [j, i] s) ∧
  (∀ (c : Channel) (l : List Instr) (s t : State), (∀ i ∈ l, ∃ d : Channel, i.isEdgeOf d = true) →
    execAll l s = .next t →
    ∃ u : State, execAll (l.filter fun i => i.isEdgeOf c) s = .next u ∧ t.bank c = u.bank c)

/-- Operations of distinct channels commute (R206), but for the order in which two channels' reports appear: each
channel's own reports are the same. -/
def Obligations.ChannelOperationsCommute : Prop :=
  ∀ (c d : Channel) (i j : Instr) (s : State), c ≠ d → i.onChannel c = true → j.onChannel d = true →
    ∃ t u : State, execAll [i, j] s = .next t ∧ execAll [j, i] s = .next u ∧
      (∀ e : Channel, t.bank e = u.bank e) ∧ t.out = u.out ∧ t.responses = u.responses ∧
      (∀ e : Channel, t.reportsOf e = u.reportsOf e) ∧ u.sameEnvironment t

/-- On one channel the order of a FALL and a CONSUME decides (R206). A FALL that the guard accepts: FALL first, the new
width is consumed now; CONSUME first, it waits, beside the snapshot of what waited before, if anything did. On a guarded
channel with NEW set before both: FALL first, it is rejected and the width that waited is consumed; CONSUME first, that
width is consumed too, and the FALL, which finds NEW clear, is rejected on an Idle channel and accepted on a Measuring
one, where its width waits. The clause on a Measuring channel follows R69, R112, R113, R116 and R140; R206's last sentence, as it stands, reads otherwise (log 12). -/
def Obligations.FallAndConsumeOrderMatters : Prop :=
  (∀ (c : Channel) (now : Word) (s : State),
    ((c = .power ∧ s.powerGuard = false) ∨ ((s.bank c).meas = true ∧ (s.bank c).new = false)) →
    ∃ t u : State, execAll [.fall c now, .consume c] s = .next t ∧ execAll [.consume c, .fall c now] s = .next u ∧
      (t.bank c).new = false ∧ (t.bank c).snap = now - (s.bank c).start ∧
      (u.bank c).new = true ∧ (u.bank c).width = now - (s.bank c).start ∧
      (u.bank c).snap = (if (s.bank c).new then (s.bank c).width else (s.bank c).snap)) ∧
  (∀ (c : Channel) (now : Word) (s : State), (c ≠ .power ∨ s.powerGuard = true) → (s.bank c).new = true →
    exec (.fall c now) s = .next s ∧
    ∃ t : State, execAll [.fall c now, .consume c] s = .next t ∧ exec (.consume c) s = .next t ∧
      (t.bank c).new = false ∧ (t.bank c).snap = (s.bank c).width ∧
      ((s.bank c).meas = false → execAll [.consume c, .fall c now] s = .next t) ∧
      ((s.bank c).meas = true → ∃ u : State, execAll [.consume c, .fall c now] s = .next u ∧
        (u.bank c).snap = (s.bank c).width ∧ (u.bank c).new = true ∧ (u.bank c).width = now - (s.bank c).start))

/-! ## Who writes what (10_state.md) -/

/-- R28: WIDTH, START and MEAS change only by the channel's own edges and RESET; NEW is set only by an accepted FALL and
cleared only by CONSUME and RESET; SNAP and the channel's outputs change only by its CONSUME and RESET; and of the
agents only Ec, the consumer and the host issue those. -/
def Obligations.WritersAreExclusive : Prop :=
  (∀ (c : Channel) (i : Instr) (s t : State), exec i s = .next t →
    (i.isEdgeOf c = false → i ≠ .reset →
      (t.bank c).width = (s.bank c).width ∧ (t.bank c).start = (s.bank c).start ∧ (t.bank c).meas = (s.bank c).meas) ∧
    ((s.bank c).new = false → (t.bank c).new = true → i.isFallOf c = true ∧ accept s c = true) ∧
    ((s.bank c).new = true → (t.bank c).new = false → i = .consume c ∨ i = .reset) ∧
    (i ≠ .consume c → i ≠ .reset →
      (t.bank c).snap = (s.bank c).snap ∧ t.out.boundTo c = s.out.boundTo c)) ∧
  (∀ (a : Agent) (c : Channel) (i : Instr), mayIssue a i = true →
    (i.isEdgeOf c = true → a = .edge c) ∧ (i = .consume c → a = .consumer) ∧ (i = .reset → a = .host))

/-- R29: an operation on channel c changes no other channel's bank or outputs, and its effect on channel c depends on no
other channel's. -/
def Obligations.ChannelsAreIsolated : Prop :=
  ∀ (c : Channel) (i : Instr) (s s' : State), i.onChannel c = true → s'.bank c = s.bank c →
    s'.powerGuard = s.powerGuard →
    ∃ t t' : State, exec i s = .next t ∧ exec i s' = .next t' ∧ t'.bank c = t.bank c ∧
      (s'.out.boundTo c = s.out.boundTo c → t'.out.boundTo c = t.out.boundTo c) ∧
      (∀ d : Channel, d ≠ c → t.bank d = s.bank d ∧ t.out.boundTo d = s.out.boundTo d)

/-- The invariants hold at power-on, for both values of POWER_GUARD: those of the block by R49. That the streams are
legal and of their agents' roles there rests on the model's choice that they are empty (log 8), no rule of the spec. -/
def Obligations.InvariantsHoldAtPowerOn : Prop :=
  ∀ g : Bool, (State.powerOn g).idleStartsZero ∧ (State.powerOn g).outputsShowSnapshots ∧
    (State.powerOn g).legalStreams ∧ (State.powerOn g).rolesKept

/-- R30: MEAS[c] = 0 implies START[c] = 0, at power-on and, once it holds, after every step; the converse fails after a
RISE with `now` = 0. -/
def Obligations.IdleChannelsStartAtZero : Prop :=
  (∀ g : Bool, (State.powerOn g).idleStartsZero) ∧
  (∀ s t : State, s.idleStartsZero → step s = .next t → t.idleStartsZero) ∧
  (∀ (c : Channel) (s : State), ∃ t : State, exec (.rise c 0#32) s = .next t ∧
    (t.bank c).meas = true ∧ (t.bank c).start = 0#32)

/-- Every step keeps the outputs equal to the conversion of the snapshots (R27, R141), or for colour, which no CONSUME 1
has written since reset, at the reset value 0 beside a snapshot of 0 (R49, R230). -/
def Obligations.StepKeepsOutputsShowingSnapshots : Prop :=
  ∀ s t : State, s.outputsShowSnapshots → step s = .next t → t.outputsShowSnapshots

/-- The agents' roles, once kept, stay kept at every step, and then a step that changes a channel's WIDTH, START or MEAS
is its edge source's or the host's, and one that changes its SNAP or its outputs the consumer's or the host's. -/
def Obligations.RoleKeepingAgentsWriteTheirOwn : Prop :=
  ∀ s t : State, s.rolesKept → step s = .next t →
    t.rolesKept ∧
    ∀ c : Channel,
      (((t.bank c).width ≠ (s.bank c).width ∨ (t.bank c).start ≠ (s.bank c).start ∨
          (t.bank c).meas ≠ (s.bank c).meas) →
        ∃ w : OpWord, nextIssue s = some (.edge c, w) ∨ nextIssue s = some (.host, w)) ∧
      (((t.bank c).snap ≠ (s.bank c).snap ∨ t.out.boundTo c ≠ s.out.boundTo c) →
        ∃ w : OpWord, nextIssue s = some (.consumer, w) ∨ nextIssue s = some (.host, w))

/-- The report stream only grows (R37): a step, RESET among them (R50), removes no record and appends at most one. The
second clause, the same of the list of READ's answers, is about the model's own record (log 3), which RESET keeps by the
model's choice (log 4); no rule of the spec states it. -/
def Obligations.StreamsAreAppendOnly : Prop :=
  ∀ s t : State, step s = .next t →
    (t.reports = s.reports ∨ ∃ (c : Channel) (v : Word), t.reports = s.reports ++ [⟨c, v⟩]) ∧
    (t.responses = s.responses ∨ ∃ (r : Reg) (v : Word), t.responses = s.responses ++ [⟨r, v⟩])

/-- No operation and no step changes POWER_GUARD, and so CONFIG is a constant (R44, R51). That POWER_GUARD is a field of
State is the model's choice (log 5). -/
def Obligations.ConfigurationIsConstant : Prop :=
  (∀ (i : Instr) (s t : State), exec i s = .next t →
    t.powerGuard = s.powerGuard ∧ memRead t .config = memRead s .config) ∧
  (∀ s t : State, step s = .next t → t.powerGuard = s.powerGuard ∧ memRead t .config = memRead s .config)

/-! ## Consume, read, nop (41_dispatch.md) -/

/-- R140, R141 and R142: with a new value CONSUME c snapshots WIDTH[c], clears NEW[c], converts into channel c's outputs
and appends the report, changing nothing else; without, it changes nothing; its word. -/
def Obligations.ConsumeTakesTheNewWidth : Prop :=
  (∀ c : Channel, encode (.consume c) = (0x3#4 ++ 0b00#2 ++ c.number ++ 0#32 : BitVec 40)) ∧
  ∀ (c : Channel) (s : State),
    ((s.bank c).new = true → ∃ t : State, exec (.consume c) s = .next t ∧
      (t.bank c).snap = (s.bank c).width ∧ (t.bank c).new = false ∧ (t.bank c).width = (s.bank c).width ∧
      (t.bank c).start = (s.bank c).start ∧ (t.bank c).meas = (s.bank c).meas ∧
      (∀ d : Channel, d ≠ c → t.bank d = s.bank d ∧ t.out.boundTo d = s.out.boundTo d) ∧
      (c = .power → t.out.power = powerSwitch ((s.bank c).width.toNat : Int)) ∧
      (c = .color → (⟨t.out.red, t.out.green, t.out.blue⟩ : Rgb) = colorMixer ((s.bank c).width.toNat : Int)) ∧
      (c = .bright → t.out.duty = brightnessDriver ((s.bank c).width.toNat : Int)) ∧
      t.reports = s.reports ++ [⟨c, (s.bank c).width⟩] ∧ t.responses = s.responses ∧ s.sameEnvironment t) ∧
    ((s.bank c).new = false → exec (.consume c) s = .next s)

/-- R144: of two CONSUME c with no accepted FALL c and no RESET between them, the second changes nothing. -/
def Obligations.SecondConsumeChangesNothing : Prop :=
  ∀ (c : Channel) (l : List Instr) (s s' t : State), exec (.consume c) s = .next s' → noAcceptedFall c l s' →
    (∀ i ∈ l, i ≠ .reset) → execAll l s' = .next t → exec (.consume c) t = .next t

/-- A pass (R97, R145) leaves no channel with a new value and reports exactly the channels that had one, in channel
order. -/
def Obligations.PassReportsInChannelOrder : Prop :=
  ∀ s : State, ∃ t : State, execAll passOps s = .next t ∧
    t.reports = s.reports ++ (([.power, .color, .bright] : List Channel).filter fun c => (s.bank c).new).map
      (fun c => ⟨c, (s.bank c).width⟩) ∧
    ∀ c : Channel, (t.bank c).new = false

/-- On a guarded channel, with no RESET, every accepted width is consumed exactly once and in order, or still waits: the
reports and the waiting width after any operations are those before with the accepted widths added (R149 (b)). -/
def Obligations.AcceptedWidthsAreConsumedExactlyOnce : Prop :=
  ∀ (c : Channel) (l : List Instr) (s t : State), (c ≠ .power ∨ s.powerGuard = true) → (∀ i ∈ l, i ≠ .reset) →
    execAll l s = .next t →
    t.reportsOf c ++ t.pending c = s.reportsOf c ++ s.pending c ++ acceptedWidths c l s

/-- On every channel, whatever runs, the new reports are widths that accepted FALLs wrote (or the one that waited), each
at most once and in order (R149 (a), (c)). -/
def Obligations.ReportsAreAcceptedWidths : Prop :=
  ∀ (c : Channel) (l : List Instr) (s t : State), execAll l s = .next t →
    ∃ new : List Word, t.reportsOf c = s.reportsOf c ++ new ∧
      List.Sublist (new ++ t.pending c) (s.pending c ++ acceptedWidths c l s)

/-- READ (R147, R61, R67) answers the register's value and changes no state of the block; read again, it answers the
same. The answer's record is the model's (log 3). -/
def Obligations.ReadAnswersTheRegister : Prop :=
  (∀ (r : Reg) (s : State), exec (.read r) s = .next { s with responses := s.responses ++ [⟨r, memRead s r⟩] }) ∧
  (∀ (r : Reg) (s : State), ∃ t : State, execAll [.read r, .read r] s = .next t ∧
    t.responses = s.responses ++ [⟨r, memRead s r⟩, ⟨r, memRead s r⟩] ∧ ∀ r' : Reg, memRead t r' = memRead s r')

/-- The values of the register map by index (R39 to R43, R45 to R48): index 4c + k, and 12 to 15. -/
def Obligations.RegisterMapValues : Prop :=
  (∀ (s : State) (c : Channel),
    memRead s (Reg.ofIndex (BitVec.ofNat 4 (4 * c.number.toNat))) = (s.bank c).width ∧
    memRead s (Reg.ofIndex (BitVec.ofNat 4 (4 * c.number.toNat + 1))) = (s.bank c).start ∧
    (memRead s (Reg.ofIndex (BitVec.ofNat 4 (4 * c.number.toNat + 2)))).toNat =
      (if (s.bank c).meas then 2 else 0) + (if (s.bank c).new then 1 else 0) ∧
    memRead s (Reg.ofIndex (BitVec.ofNat 4 (4 * c.number.toNat + 3))) = (s.bank c).snap) ∧
  (∀ s : State,
    (memRead s (Reg.ofIndex 12#4)).toNat = (if s.out.power then 1 else 0) ∧
    (memRead s (Reg.ofIndex 13#4)).toNat = s.out.duty.toNat ∧
    (memRead s (Reg.ofIndex 14#4)).toNat = s.out.red.toNat * 65536 + s.out.green.toNat * 256 + s.out.blue.toNat ∧
    memRead s (Reg.ofIndex 15#4) = (if s.powerGuard then 0x00032001#32 else 0x00032000#32))

/-- R148: NOP, the word 0x0000000000, leaves every state unchanged. -/
def Obligations.NopChangesNothing : Prop :=
  encode .nop = 0x0000000000#40 ∧ ∀ s : State, exec .nop s = .next s

/-! ## Converters (42_converters.md) -/

/-- R173: OFF below 1500, ON from 1500, for every integer. -/
def Obligations.PowerSwitchThreshold : Prop :=
  ∀ w : Int, (w < 1500 → powerSwitch w = false) ∧ (1500 ≤ w → powerSwitch w = true)

/-- R174 with R171 and R172: the duty is the linear map rounded down between the ends of the input interval and
saturates outside it; the hue is the same (R175). -/
def Obligations.BrightnessIsTheSaturatedFloor : Prop :=
  ∀ w : Int,
    (w ≤ 1003 → brightnessDriver w = 0#8) ∧ (2000 ≤ w → brightnessDriver w = 255#8) ∧
    (1000 ≤ w → w ≤ 2000 → 1000 * ((brightnessDriver w).toNat : Int) ≤ (w - 1000) * 255 ∧
      (w - 1000) * 255 < 1000 * ((brightnessDriver w).toNat + 1)) ∧
    hue w = brightnessDriver w

/-- R182: the breakpoints of `lin`, and every input band of its table. -/
def Obligations.ConverterInputBands : Prop :=
  (∀ w k : Int, 1 ≤ k → k ≤ 255 → (k ≤ lin w ↔ 1000 + -((-(1000 * k)) / 255) ≤ w)) ∧
  (∀ w : Int, (powerSwitch w = false ↔ w ≤ 1499) ∧ (powerSwitch w = true ↔ 1500 ≤ w) ∧
    (brightnessDriver w = 0#8 ↔ w ≤ 1003) ∧ (brightnessDriver w = 1#8 ↔ 1004 ≤ w ∧ w ≤ 1007) ∧
    (brightnessDriver w = 127#8 ↔ 1499 ≤ w ∧ w ≤ 1501) ∧ (brightnessDriver w = 128#8 ↔ 1502 ≤ w ∧ w ≤ 1505) ∧
    (brightnessDriver w = 254#8 ↔ 1997 ≤ w ∧ w ≤ 1999) ∧ (brightnessDriver w = 255#8 ↔ 2000 ≤ w) ∧
    hue w = brightnessDriver w ∧
    ((hue w).toNat ≤ 84 ↔ w ≤ 1333) ∧ (85 ≤ (hue w).toNat ∧ (hue w).toNat ≤ 169 ↔ 1334 ≤ w ∧ w ≤ 1666) ∧
    (170 ≤ (hue w).toNat ↔ 1667 ≤ w))

/-- R176 and R177: ColorMixer's components by the hue, in the three segments; full saturation and value, so they sum to
255. -/
def Obligations.ColorMixerSegments : Prop :=
  ∀ w : Int,
    ((hue w).toNat < 85 → (colorMixer w).r.toNat = 255 - 3 * (hue w).toNat ∧
      (colorMixer w).g.toNat = 3 * (hue w).toNat ∧ (colorMixer w).b.toNat = 0) ∧
    (85 ≤ (hue w).toNat → (hue w).toNat < 170 → (colorMixer w).r.toNat = 0 ∧
      (colorMixer w).g.toNat = 255 - 3 * ((hue w).toNat - 85) ∧ (colorMixer w).b.toNat = 3 * ((hue w).toNat - 85)) ∧
    (170 ≤ (hue w).toNat → (colorMixer w).r.toNat = 3 * ((hue w).toNat - 170) ∧ (colorMixer w).g.toNat = 0 ∧
      (colorMixer w).b.toNat = 255 - 3 * ((hue w).toNat - 170)) ∧
    (colorMixer w).r.toNat + (colorMixer w).g.toNat + (colorMixer w).b.toNat = 255

/-- R178: at every hue the exact components lie in [0, 255], so the saturating output stage (R179) changes none of
them, and truncation to 8 bits would give the same. The same of the duty and the hue before they are narrowed: the
clamped integer lies in [0, 255], is the register's value, and saturated or truncated gives that register. -/
def Obligations.OutputStageChangesNothing : Prop :=
  (∀ h : Int, 0 ≤ h → h ≤ 255 → ∀ v ∈ [(rgbExact h).1, (rgbExact h).2.1, (rgbExact h).2.2],
    0 ≤ v ∧ v ≤ 255 ∧ ((clamp8 v).toNat : Int) = v ∧ BitVec.ofInt 8 v = clamp8 v) ∧
  (∀ w : Int, 0 ≤ clamp (lin w) 0 255 ∧ clamp (lin w) 0 255 ≤ 255 ∧
    ((brightnessDriver w).toNat : Int) = clamp (lin w) 0 255 ∧ ((hue w).toNat : Int) = clamp (lin w) 0 255 ∧
    clamp8 (clamp (lin w) 0 255) = brightnessDriver w ∧ BitVec.ofInt 8 (clamp (lin w) 0 255) = brightnessDriver w)

/-- R183: the converters are non-decreasing, a one-microsecond step raises `lin` by 0 or 1, and a unit step of hue,
the steps across the segments' boundaries included, moves each colour component by 0 or 3; 255 is 0 again. -/
def Obligations.ConvertersAreMonotoneAndContinuous : Prop :=
  (∀ v w : Int, v ≤ w → lin v ≤ lin w ∧ (brightnessDriver v).toNat ≤ (brightnessDriver w).toNat ∧
    (hue v).toNat ≤ (hue w).toNat ∧ (powerSwitch v = true → powerSwitch w = true)) ∧
  (∀ w : Int, lin (w + 1) = lin w ∨ lin (w + 1) = lin w + 1) ∧
  (∀ h : Int, 0 ≤ h → h < 255 →
    ((rgbExact (h + 1)).1 - (rgbExact h).1) ∈ [-3, 0, 3] ∧
    ((rgbExact (h + 1)).2.1 - (rgbExact h).2.1) ∈ [-3, 0, 3] ∧
    ((rgbExact (h + 1)).2.2 - (rgbExact h).2.2) ∈ [-3, 0, 3]) ∧
  rgbExact 84 = (3, 252, 0) ∧ rgbExact 85 = (0, 255, 0) ∧ rgbExact 169 = (0, 3, 252) ∧ rgbExact 170 = (0, 0, 255) ∧
  rgbExact 255 = rgbExact 0

/-- R181: rounding toward zero instead of down gives the same duty and hue for every integer. -/
def Obligations.FloorAndTruncationAgree : Prop :=
  ∀ w : Int, clamp8 (Int.tdiv ((w - 1000) * 255) 1000) = brightnessDriver w ∧
    clamp8 (Int.tdiv ((w - 1000) * 255) 1000) = hue w

/-! ## Text, syntax and agents (30_encoding.md, 41_dispatch.md, 60_exceptions.md) -/

/-- The text of a record (R146): the label (R11), " PWM: ", the value in base 10 that reads back as the value, with no leading
zero, and the terminator, whatever it is. -/
def Obligations.ReportLineShowsTheValue : Prop :=
  label .power = "Power" ∧ label .color = "Color" ∧ label .bright = "Bright" ∧
  (∀ (eol : String) (c : Channel) (v : Word), reportLine eol ⟨c, v⟩ = label c ++ " PWM: " ++ decimal v ++ eol) ∧
  (∀ v : Word, digitsValue 10 0 (decimal v).toList = some v.toNat) ∧
  (∀ v : Word, (decimal v).toList ≠ [] ∧ ((decimal v).toList.head? = some '0' → decimal v = "0"))

/-- R99: a number, written in decimal or as hex with a `0x` prefix, is taken whole when it lies in [0, 2^32), and
refused, never reduced, when it does not. Hex is stated in the upper-case digits in which the spec writes it, and then,
in lower-case digits and in any mixture of the two, by the model's choice (log 10): R99 leaves the case open. The
refusal's name is the model's too (log 10). -/
def Obligations.AssemblerNumbersAreNeverReduced : Prop :=
  ∀ n : Nat,
    parseNumber (String.ofList (Nat.toDigits 10 n)) =
      (if n < 2 ^ 32 then .ok (BitVec.ofNat 32 n) else .error .numberTooLarge) ∧
    parseNumber (String.ofList ('0' :: 'x' :: (Nat.toDigits 16 n).map Char.toUpper)) =
      (if n < 2 ^ 32 then .ok (BitVec.ofNat 32 n) else .error .numberTooLarge) ∧
    parseNumber (String.ofList ('0' :: 'x' :: Nat.toDigits 16 n)) =
      (if n < 2 ^ 32 then .ok (BitVec.ofNat 32 n) else .error .numberTooLarge) ∧
    ∀ ds : List Char, ds.map Char.toLower = Nat.toDigits 16 n →
      parseNumber (String.ofList ('0' :: 'x' :: ds)) =
        (if n < 2 ^ 32 then .ok (BitVec.ofNat 32 n) else .error .numberTooLarge)

/-- R95 and R96: a channel operand is one of six texts and nothing else, a register operand one of the names or of r0 to
r15 and nothing else; a register's name stands for the register of its position in the list. -/
def Obligations.AssemblerNamesFollowTheirPosition : Prop :=
  (∀ o : String, (parseChannel o = .ok .power ↔ o = "power" ∨ o = "0") ∧
    (parseChannel o = .ok .color ↔ o = "color" ∨ o = "1") ∧ (parseChannel o = .ok .bright ↔ o = "bright" ∨ o = "2")) ∧
  (∀ (r : Reg) (o : String), parseRegister o = .ok r ↔
    (registerNames[r.index.toNat]? = some o ∨ registerNumbers[r.index.toNat]? = some o))

/-- R98: `pulse c, t0, w` measures exactly w wherever its FALL is accepted, t0 = 0 and the wrap included. -/
def Obligations.PulseMeasuresItsWidth : Prop :=
  ∀ (c : Channel) (t0 w : Word) (s : State), ((c = .power ∧ s.powerGuard = false) ∨ (s.bank c).new = false) →
    ∃ t : State, execAll (pulseOps c t0 w) s = .next t ∧ (t.bank c).width = w ∧ (t.bank c).new = true ∧
      (t.bank c).meas = false

/-- R210's table; and the agents of R21 keep to it: an edge source's operations (R202: RISE for a rise, FALL for a fall,
with the time base at the change), the words it issues for any changes of its line, and the reference consumer's. -/
def Obligations.AgentsKeepTheirRoles : Prop :=
  (∀ (a : Agent) (i : Instr), mayIssue a i = true ↔
    (∃ (c : Channel) (now : Word), a = .edge c ∧ (i = .rise c now ∨ i = .fall c now)) ∨
    (a = .consumer ∧ ((∃ c : Channel, i = .consume c) ∨ (∃ r : Reg, i = .read r) ∨ i = .nop)) ∨
    (a = .host ∧ (i = .reset ∨ (∃ r : Reg, i = .read r) ∨ i = .nop))) ∧
  (∀ (c : Channel) (e : LineChange), mayIssue (.edge c) (edgeOperation c e) = true ∧
    edgeOperation c e = (if e.rising then .rise c (BitVec.ofNat 32 e.time) else .fall c (BitVec.ofNat 32 e.time))) ∧
  (∀ (c : Channel) (changes : List LineChange) (w : OpWord), w ∈ edgeStream c changes →
    ∃ i : Instr, decode w = .ok i ∧ mayIssue (.edge c) i = true) ∧
  (∀ (n : Nat) (w : OpWord), w ∈ referenceStream n →
    ∃ i : Instr, decode w = .ok i ∧ mayIssue .consumer i = true)

/-- The line itself (R202, R211, R212): a rise at true time a and a fall at true time b, not before a, delivered on a
channel with no new value waiting, leave the length mod 2^32 in WIDTH; where the edge source keeps its duty of R212 (a),
the fall less than 2^32 µs after the rise, they leave the true length itself. -/
def Obligations.LineChangesAreMeasured : Prop :=
  (∀ (c : Channel) (a b : Nat) (s : State), a ≤ b → (s.bank c).new = false →
    ∃ t : State, execAll [edgeOperation c ⟨a, true⟩, edgeOperation c ⟨b, false⟩] s = .next t ∧
      (t.bank c).width.toNat = (b - a) % 2 ^ 32 ∧ (t.bank c).new = true ∧ (t.bank c).meas = false) ∧
  (∀ (c : Channel) (a b : Nat) (s : State), inOrder [⟨a, true⟩, ⟨b, false⟩] = true → (s.bank c).new = false →
    ∃ t : State, execAll [edgeOperation c ⟨a, true⟩, edgeOperation c ⟨b, false⟩] s = .next t ∧
      (t.bank c).width.toNat = b - a ∧ (t.bank c).new = true ∧ (t.bank c).meas = false)
end

