-- ==== Sys2Proof/Laws/Convert.lean ====
section
/-! SUPPORT. The converters as facts of integers, for omega to finish (R171 to R183). -/

namespace Sys2Proof.Machine

/-- The saturation of R172 never leaves [0, 255]. -/
theorem clamp_range (v : Int) : 0 ≤ clamp v 0 255 ∧ clamp v 0 255 ≤ 255 := by simp only [clamp]; omega

/-- The number an 8-bit register holds after the output stage (R179). -/
theorem clamp8_toNat (v : Int) : ((clamp8 v).toNat : Int) = clamp v 0 255 := by
  have h := clamp_range v
  simp only [clamp8, Config.outMax, BitVec.toNat_ofInt]
  omega

/-- A value already in range goes through the output stage unchanged (R179). -/
theorem clamp8_toNat_of_range {v : Int} (h0 : 0 ≤ v) (h1 : v ≤ 255) : ((clamp8 v).toNat : Int) = v := by
  rw [clamp8_toNat]; simp only [clamp]; omega

/-- `lin` with its parameters in place (R171). -/
theorem lin_eq (w : Int) : lin w = (w - 1000) * 255 / 1000 := rfl

/-- The duty as an integer (R174). -/
theorem brightnessDriver_toNat (w : Int) : ((brightnessDriver w).toNat : Int) = clamp (lin w) 0 255 := clamp8_toNat _

/-- The hue as an integer (R175). -/
theorem hue_toNat (w : Int) : ((hue w).toNat : Int) = clamp (lin w) 0 255 := clamp8_toNat _

theorem powerSwitch_iff (w : Int) : powerSwitch w = true ↔ 1500 ≤ w := decide_eq_true_iff

/-- Segment 1 of R176, red to green. -/
theorem rgbExact_first {h : Int} (h1 : h < 85) : rgbExact h = (255 - 3 * h, 3 * h, 0) := if_pos h1

/-- Segment 2 of R176, green to blue. -/
theorem rgbExact_second {h : Int} (h1 : 85 ≤ h) (h2 : h < 170) :
    rgbExact h = (0, 255 - 3 * (h - 85), 3 * (h - 85)) :=
  (if_neg (Int.not_lt.mpr h1)).trans (if_pos h2)

/-- Segment 3 of R176, blue to red. -/
theorem rgbExact_third {h : Int} (h1 : 170 ≤ h) : rgbExact h = (3 * (h - 170), 0, 255 - 3 * (h - 170)) :=
  (if_neg (Int.not_lt.mpr (by show (85 : Int) ≤ h; omega))).trans (if_neg (Int.not_lt.mpr h1))

/-- Every component of R176 is in [0, 255] where the hue is (R178). -/
theorem rgbExact_range {h : Int} (h0 : 0 ≤ h) (h1 : h ≤ 255) :
    (0 ≤ (rgbExact h).1 ∧ (rgbExact h).1 ≤ 255) ∧ (0 ≤ (rgbExact h).2.1 ∧ (rgbExact h).2.1 ≤ 255) ∧
      (0 ≤ (rgbExact h).2.2 ∧ (rgbExact h).2.2 ≤ 255) := by
  rcases Int.lt_or_le h 85 with hs | hs
  · simp only [rgbExact_first hs]; omega
  · rcases Int.lt_or_le h 170 with ht | ht
    · simp only [rgbExact_second hs ht]; omega
    · simp only [rgbExact_third ht]; omega

/-- The components of RGB as integers: the formulas of R176, the output stage changing none (R178, R179). -/
theorem rgbOfHue_toNat (h : Byte) :
    ((rgbOfHue h).r.toNat : Int) = (rgbExact h.toNat).1 ∧ ((rgbOfHue h).g.toNat : Int) = (rgbExact h.toNat).2.1 ∧
      ((rgbOfHue h).b.toNat : Int) = (rgbExact h.toNat).2.2 := by
  have hr := rgbExact_range (h := h.toNat) (by omega) (by have := h.isLt; omega)
  exact ⟨clamp8_toNat_of_range hr.1.1 hr.1.2, clamp8_toNat_of_range hr.2.1.1 hr.2.1.2,
    clamp8_toNat_of_range hr.2.2.1 hr.2.2.2⟩

end Sys2Proof.Machine
end

