-- ==== Sys2Proof/Laws/Decode.lean ====
section
/-! SUPPORT. The fields of a word built from its fields, and channel and register numbers. -/

namespace Sys2Proof

@[simp] theorem Channel.ofNumber_number (c : Channel) : Channel.ofNumber c.number = some c := by cases c <;> rfl

theorem Channel.number_of_ofNumber {n : BitVec 2} {c : Channel} (h : Channel.ofNumber n = some c) : c.number = n := by
  revert h; revert c n; decide

theorem Channel.ofNumber_none {n : BitVec 2} : Channel.ofNumber n = none ↔ n = 0b11#2 := by revert n; decide

@[simp] theorem Reg.ofIndex_index (r : Reg) : Reg.ofIndex r.index = r := by
  rcases r with (_ | _ | _) | (_ | _ | _) | (_ | _ | _) | (_ | _ | _) | _ | _ | _ | _ <;> rfl

@[simp] theorem Reg.index_ofIndex (i : BitVec 4) : (Reg.ofIndex i).index = i := by revert i; decide

variable (op : BitVec 4) (rsv ch : BitVec 2) (reg : BitVec 4) (data : Word)

/-- The number a concatenation writes. -/
theorem toNat_append_eq {m n : Nat} (x : BitVec m) (y : BitVec n) : (x ++ y).toNat = x.toNat * 2 ^ n + y.toNat := by
  rw [BitVec.toNat_append, Nat.shiftLeft_eq, Nat.mul_comm, Nat.two_pow_add_eq_or_of_lt y.isLt]

/-- The number a field holds. -/
theorem toNat_extract {n : Nat} (x : BitVec n) (k m : Nat) : (x.extractLsb' k m).toNat = x.toNat / 2 ^ k % 2 ^ m := by
  simp [Nat.shiftRight_eq_div_pow]

section Fields
variable (op : BitVec 4) (c : Channel) (reg : BitVec 4) (data : Word) (w : OpWord)

@[simp] theorem opField_channelWord : opField (channelWord op c data) = op := by
  apply BitVec.eq_of_toNat_eq
  simp only [opField, channelWord, toNat_extract, toNat_append_eq]
  have := data.isLt; have := c.number.isLt; have := op.isLt
  simp only [BitVec.toNat_ofNat]
  omega

@[simp] theorem rsvField_channelWord : rsvField (channelWord op c data) = 0b00#2 := by
  apply BitVec.eq_of_toNat_eq
  simp only [rsvField, channelWord, toNat_extract, toNat_append_eq]
  have := data.isLt; have := c.number.isLt
  simp only [BitVec.toNat_ofNat]
  omega

@[simp] theorem chField_channelWord : chField (channelWord op c data) = c.number := by
  apply BitVec.eq_of_toNat_eq
  simp only [chField, channelWord, toNat_extract, toNat_append_eq]
  have := data.isLt; have := c.number.isLt
  omega

@[simp] theorem dataField_channelWord : dataField (channelWord op c data) = data := by
  apply BitVec.eq_of_toNat_eq
  simp only [dataField, channelWord, toNat_extract, toNat_append_eq]
  have := data.isLt
  omega

@[simp] theorem opField_registerWord : opField (registerWord op reg) = op := by
  apply BitVec.eq_of_toNat_eq
  simp only [opField, registerWord, toNat_extract, toNat_append_eq]
  have := op.isLt; have := reg.isLt
  simp only [BitVec.toNat_ofNat]
  omega

@[simp] theorem regField_registerWord : regField (registerWord op reg) = reg := by
  apply BitVec.eq_of_toNat_eq
  simp only [regField, registerWord, toNat_extract, toNat_append_eq]
  have := reg.isLt
  simp only [BitVec.toNat_ofNat]
  omega

@[simp] theorem dataField_registerWord : dataField (registerWord op reg) = 0#32 := by
  apply BitVec.eq_of_toNat_eq
  simp only [dataField, registerWord, toNat_extract, toNat_append_eq]
  simp only [BitVec.toNat_ofNat]
  omega

/-- REG overlays RSV and CH (R81). -/
theorem regField_eq : regField w = rsvField w ++ chField w := by
  apply BitVec.eq_of_toNat_eq
  simp only [regField, rsvField, chField, toNat_extract, toNat_append_eq]
  omega

/-- A word is its OP, RSV, CH and DATA (R81). -/
theorem word_eq_fields : opField w ++ rsvField w ++ chField w ++ dataField w = w := by
  apply BitVec.eq_of_toNat_eq
  simp only [opField, rsvField, chField, dataField, toNat_extract, toNat_append_eq]
  omega

/-- A word is its OP, REG and DATA (R81). -/
theorem word_eq_register_fields : opField w ++ regField w ++ dataField w = w := by
  apply BitVec.eq_of_toNat_eq
  simp only [opField, regField, dataField, toNat_extract, toNat_append_eq]
  omega

/-- A word whose RSV is 00 and whose CH names a channel is of format E or C (R81). -/
theorem channelWord_of_fields {w : OpWord} {c : Channel} (hr : rsvField w = 0b00#2)
    (hc : Channel.ofNumber (chField w) = some c) : channelWord (opField w) c (dataField w) = w := by
  rw [channelWord, Channel.number_of_ofNumber hc, ← hr, word_eq_fields]

/-- A word whose DATA is 0 is of format R or Z (R81). -/
theorem registerWord_of_fields {w : OpWord} (hd : dataField w = 0#32) :
    registerWord (opField w) (regField w) = w := by rw [registerWord, ← hd, word_eq_register_fields]

end Fields

end Sys2Proof
end

