-- ==== Sys2Proof/Laws/State.lean ====
section
/-! SUPPORT. One lemma for each field under each update of the state, so that no proof unfolds a record update. -/

namespace Sys2Proof.Machine

variable (s : State) (c d : Channel) (b : Bank) (v : Word) (r : Reg) (a a' : Agent) (ws : List OpWord) (l : List Agent)

@[simp] theorem bank_setBank : (s.setBank c b).bank d = if d = c then b else s.bank d := by
  cases c <;> cases d <;> rfl
@[simp] theorem out_setBank : (s.setBank c b).out = s.out := by cases c <;> rfl
@[simp] theorem reports_setBank : (s.setBank c b).reports = s.reports := by cases c <;> rfl
@[simp] theorem powerGuard_setBank : (s.setBank c b).powerGuard = s.powerGuard := by cases c <;> rfl
@[simp] theorem responses_setBank : (s.setBank c b).responses = s.responses := by cases c <;> rfl
@[simp] theorem streams_setBank : (s.setBank c b).streams = s.streams := by cases c <;> rfl
@[simp] theorem schedule_setBank : (s.setBank c b).schedule = s.schedule := by cases c <;> rfl
@[simp] theorem stream_setBank : (s.setBank c b).stream a = s.stream a := by cases c <;> rfl

/-- Putting a bank back changes nothing. -/
@[simp] theorem setBank_bank : s.setBank c (s.bank c) = s := by cases c <;> rfl

/-- Writes to two channels' banks commute (R29). -/
theorem setBank_comm {c d : Channel} (h : c ≠ d) (b b' : Bank) :
    (s.setBank c b).setBank d b' = (s.setBank d b').setBank c b := by
  cases c <;> cases d <;> first | rfl | exact absurd rfl h

@[simp] theorem bank_convertOut : (s.convertOut c v).bank d = s.bank d := by cases d <;> rfl
@[simp] theorem out_convertOut : (s.convertOut c v).out = convert c v s.out := rfl
@[simp] theorem reports_convertOut : (s.convertOut c v).reports = s.reports := rfl
@[simp] theorem powerGuard_convertOut : (s.convertOut c v).powerGuard = s.powerGuard := rfl
@[simp] theorem responses_convertOut : (s.convertOut c v).responses = s.responses := rfl
@[simp] theorem streams_convertOut : (s.convertOut c v).streams = s.streams := rfl
@[simp] theorem schedule_convertOut : (s.convertOut c v).schedule = s.schedule := rfl
@[simp] theorem stream_convertOut : (s.convertOut c v).stream a = s.stream a := rfl

@[simp] theorem bank_emitReport : (s.emitReport c v).bank d = s.bank d := by cases d <;> rfl
@[simp] theorem out_emitReport : (s.emitReport c v).out = s.out := rfl
@[simp] theorem reports_emitReport : (s.emitReport c v).reports = s.reports ++ [⟨c, v⟩] := rfl
@[simp] theorem powerGuard_emitReport : (s.emitReport c v).powerGuard = s.powerGuard := rfl
@[simp] theorem responses_emitReport : (s.emitReport c v).responses = s.responses := rfl
@[simp] theorem streams_emitReport : (s.emitReport c v).streams = s.streams := rfl
@[simp] theorem schedule_emitReport : (s.emitReport c v).schedule = s.schedule := rfl
@[simp] theorem stream_emitReport : (s.emitReport c v).stream a = s.stream a := rfl

@[simp] theorem bank_respond : (s.respond r v).bank d = s.bank d := by cases d <;> rfl
@[simp] theorem out_respond : (s.respond r v).out = s.out := rfl
@[simp] theorem reports_respond : (s.respond r v).reports = s.reports := rfl
@[simp] theorem powerGuard_respond : (s.respond r v).powerGuard = s.powerGuard := rfl
@[simp] theorem responses_respond : (s.respond r v).responses = s.responses ++ [⟨r, v⟩] := rfl
@[simp] theorem streams_respond : (s.respond r v).streams = s.streams := rfl
@[simp] theorem schedule_respond : (s.respond r v).schedule = s.schedule := rfl
@[simp] theorem stream_respond : (s.respond r v).stream a = s.stream a := rfl

@[simp] theorem bank_setStream : (s.setStream a ws).bank d = s.bank d := by
  rcases a with (_ | _ | _) | _ | _ <;> cases d <;> rfl
@[simp] theorem out_setStream : (s.setStream a ws).out = s.out := by rcases a with (_ | _ | _) | _ | _ <;> rfl
@[simp] theorem reports_setStream : (s.setStream a ws).reports = s.reports := by
  rcases a with (_ | _ | _) | _ | _ <;> rfl
@[simp] theorem powerGuard_setStream : (s.setStream a ws).powerGuard = s.powerGuard := by
  rcases a with (_ | _ | _) | _ | _ <;> rfl
@[simp] theorem responses_setStream : (s.setStream a ws).responses = s.responses := by
  rcases a with (_ | _ | _) | _ | _ <;> rfl
@[simp] theorem schedule_setStream : (s.setStream a ws).schedule = s.schedule := by
  rcases a with (_ | _ | _) | _ | _ <;> rfl
@[simp] theorem stream_setStream : (s.setStream a ws).stream a' = if a' = a then ws else s.stream a' := by
  rcases a with (_ | _ | _) | _ | _ <;> rcases a' with (_ | _ | _) | _ | _ <;> rfl

/-- Putting a stream back changes nothing. -/
@[simp] theorem setStream_stream : s.setStream a (s.stream a) = s := by
  rcases a with (_ | _ | _) | _ | _ <;> rfl
@[simp] theorem setStream_setStream (ws' : List OpWord) : (s.setStream a ws).setStream a ws' = s.setStream a ws' := by
  rcases a with (_ | _ | _) | _ | _ <;> rfl
theorem setStream_setSchedule : (s.setStream a ws).setSchedule l = (s.setSchedule l).setStream a ws := by
  rcases a with (_ | _ | _) | _ | _ <;> rfl

@[simp] theorem bank_setSchedule : (s.setSchedule l).bank d = s.bank d := by cases d <;> rfl
@[simp] theorem out_setSchedule : (s.setSchedule l).out = s.out := rfl
@[simp] theorem reports_setSchedule : (s.setSchedule l).reports = s.reports := rfl
@[simp] theorem powerGuard_setSchedule : (s.setSchedule l).powerGuard = s.powerGuard := rfl
@[simp] theorem responses_setSchedule : (s.setSchedule l).responses = s.responses := rfl
@[simp] theorem streams_setSchedule : (s.setSchedule l).streams = s.streams := rfl
@[simp] theorem schedule_setSchedule : (s.setSchedule l).schedule = l := rfl
@[simp] theorem stream_setSchedule : (s.setSchedule l).stream a = s.stream a := by
  rcases a with (_ | _ | _) | _ | _ <;> rfl
@[simp] theorem setSchedule_schedule : s.setSchedule s.schedule = s := rfl
@[simp] theorem setSchedule_setSchedule (l' : List Agent) : (s.setSchedule l).setSchedule l' = s.setSchedule l' := rfl

@[simp] theorem bank_powerOn (g : Bool) : (State.powerOn g).bank c = Bank.reset := by cases c <;> rfl
@[simp] theorem stream_powerOn (g : Bool) : (State.powerOn g).stream a = [] := by
  rcases a with (_ | _ | _) | _ | _ <;> rfl

/-- Converting for one channel leaves the outputs bound to another (R141). -/
theorem boundTo_convert_ne {c d : Channel} (h : d ≠ c) (v : Word) (o : Outputs) :
    (convert c v o).boundTo d = o.boundTo d := by
  cases c <;> cases d <;> first | exact absurd rfl h | simp [convert, Outputs.boundTo]

/-- The outputs a conversion writes do not depend on what they showed (R180). -/
theorem boundTo_convert_self (c : Channel) (v : Word) (o o' : Outputs) :
    (convert c v o).boundTo c = (convert c v o').boundTo c := by cases c <;> simp [convert, Outputs.boundTo]

/-- Conversions for two channels commute (R141). -/
theorem convert_comm {c d : Channel} (h : c ≠ d) (v w : Word) (o : Outputs) :
    convert c v (convert d w o) = convert d w (convert c v o) := by
  cases c <;> cases d <;> first | exact absurd rfl h | simp [convert]

/-- The registers determine the state: two states with the same banks and the same other fields are equal. -/
theorem state_ext {s t : State} (hb : ∀ c, t.bank c = s.bank c) (ho : t.out = s.out) (hr : t.reports = s.reports)
    (hg : t.powerGuard = s.powerGuard) (hq : t.responses = s.responses) (hs : t.streams = s.streams)
    (hl : t.schedule = s.schedule) : t = s := by
  have h0 := hb .power
  have h1 := hb .color
  have h2 := hb .bright
  cases s; cases t
  simp_all [State.bank]

end Sys2Proof.Machine
end

