-- ==== Sys2Proof/Laws/Exec.lean ====
section
/-! SUPPORT. One spec lemma for each meaning, and the one lemma that says everything an operation can do. -/

namespace Sys2Proof.Machine

theorem execRise_eq (c : Channel) (now : Word) (s : State) :
    exec (.rise c now) s = .next (s.setBank c ⟨(s.bank c).width, now, true, (s.bank c).new, (s.bank c).snap⟩) := rfl

theorem execFall_accepted {c : Channel} {s : State} (h : accept s c = true) (now : Word) :
    exec (.fall c now) s =
      .next (s.setBank c ⟨now - (s.bank c).start, 0#32, false, true, (s.bank c).snap⟩) := by
  simp [exec, execFall, h, Bank.fall]

theorem execFall_rejected {c : Channel} {s : State} (h : accept s c = false) (now : Word) :
    exec (.fall c now) s = .next s := by simp [exec, execFall, h]

theorem execConsume_new {c : Channel} {s : State} (h : (s.bank c).new = true) :
    exec (.consume c) s =
      .next (((s.setBank c (s.bank c).consume).convertOut c (s.bank c).width).emitReport c (s.bank c).width) := by
  simp [exec, execConsume, h]

theorem execConsume_nothing {c : Channel} {s : State} (h : (s.bank c).new = false) :
    exec (.consume c) s = .next s := by simp [exec, execConsume, h]

theorem execRead_eq (r : Reg) (s : State) : exec (.read r) s = .next (s.respond r (memRead s r)) := rfl

theorem execNop_eq (s : State) : exec .nop s = .next s := rfl

/-- When a channel accepts a FALL (R112). -/
theorem accept_eq_true_iff {s : State} {c : Channel} :
    accept s c = true ↔
      (c = .power ∧ s.powerGuard = false) ∨ ((s.bank c).meas = true ∧ (s.bank c).new = false) := by
  cases c <;> cases hg : s.powerGuard <;> simp [accept, guarded, hg]

/-- Everything one operation can do: one case for each way an operation acts, the first where it changes nothing. -/
theorem exec_cases {i : Instr} {s t : State} (h : exec i s = .next t) :
    (t = s ∧ (i = .nop ∨ (∃ c now, i = .fall c now ∧ accept s c = false) ∨
      (∃ c, i = .consume c ∧ (s.bank c).new = false))) ∨
    (∃ c now, i = .rise c now ∧ t = s.setBank c ((s.bank c).rise now)) ∨
    (∃ c now, i = .fall c now ∧ accept s c = true ∧ t = s.setBank c ((s.bank c).fall now)) ∨
    (∃ c, i = .consume c ∧ (s.bank c).new = true ∧
      t = ((s.setBank c (s.bank c).consume).convertOut c (s.bank c).width).emitReport c (s.bank c).width) ∨
    (∃ r, i = .read r ∧ t = s.respond r (memRead s r)) ∨
    (i = .reset ∧
      t = { s with ch0 := Bank.reset, ch1 := Bank.reset, ch2 := Bank.reset, out := Outputs.reset }) := by
  cases i with
  | nop => cases h; exact .inl ⟨rfl, .inl rfl⟩
  | rise c now => cases h; exact .inr (.inl ⟨c, now, rfl, rfl⟩)
  | fall c now =>
    simp only [exec, execFall] at h
    split at h
    · cases h; exact .inr (.inr (.inl ⟨c, now, rfl, ‹_›, rfl⟩))
    · cases h; exact .inl ⟨rfl, .inr (.inl ⟨c, now, rfl, by simpa using ‹¬accept s c = true›⟩)⟩
  | consume c =>
    simp only [exec, execConsume] at h
    split at h
    · cases h; exact .inr (.inr (.inr (.inl ⟨c, rfl, ‹_›, rfl⟩)))
    · cases h; exact .inl ⟨rfl, .inr (.inr ⟨c, rfl, by simpa using ‹¬(s.bank c).new = true›⟩)⟩
  | read r => cases h; exact .inr (.inr (.inr (.inr (.inl ⟨r, rfl, rfl⟩))))
  | reset => cases h; exact .inr (.inr (.inr (.inr (.inr ⟨rfl, rfl⟩))))

theorem execAll_cons_next {i : Instr} {s t : State} (h : exec i s = .next t) (is : List Instr) :
    execAll (i :: is) s = execAll is t := by simp [execAll, h]

/-- Running two lists is running their concatenation. -/
theorem execAll_append {l m : List Instr} {s t : State} (h : execAll l s = .next t) :
    execAll (l ++ m) s = execAll m t := by
  induction l generalizing s with
  | nil => cases h; rfl
  | cons i is ih =>
    simp only [execAll, List.cons_append] at h ⊢
    cases hi : exec i s with
    | next u => simp only [hi] at h ⊢; exact ih h
    | fault f => simp [hi] at h
    | refused r => simp [hi] at h

/-- An induction over operations packaged once: what every operation keeps, a list of operations keeps. -/
theorem execAll_induction {P : State → Prop} {Q : Instr → Prop}
    (hstep : ∀ i s t, Q i → P s → exec i s = .next t → P t) {l : List Instr} (hl : ∀ i ∈ l, Q i) {s t : State}
    (hs : P s) (h : execAll l s = .next t) : P t := by
  induction l generalizing s with
  | nil => cases h; exact hs
  | cons i is ih =>
    simp only [execAll] at h
    cases hi : exec i s with
    | next u =>
      simp only [hi] at h
      exact ih (fun j hj => hl j (by simp [hj])) (hstep i s u (hl i (by simp)) hs hi) h
    | fault f => simp [hi] at h
    | refused r => simp [hi] at h

end Sys2Proof.Machine
end

