-- ==== Sys2Proof/Laws/PerInstr.lean ====
section
/-! SUPPORT. Facts about every operation as syntax, one lemma for each constructor. `TableRow`: the word of an
operation has the pattern of its row of `opcode_table.json` under the row's mask. -/

namespace Sys2Proof.Laws.TableRow

/-- Format E leaves OP and RSV under the mask of RISE and FALL. -/
theorem mask_channelWord (op : BitVec 4) (c : Channel) (data : Word) :
    channelWord op c data &&& 0xFC00000000#40 = channelWord op .power 0#32 := by
  have hm : 0xFC00000000#40 = (0xF#4 ++ 0b11#2 ++ 0b00#2 ++ 0#32 : BitVec 40) := by decide
  rw [hm]
  calc _ = ((op &&& 0xF#4) ++ (0b00#2 &&& 0b11#2) ++ (c.number &&& 0b00#2) ++ (data &&& 0#32) : BitVec 40) := by
        rw [← BitVec.and_append, ← BitVec.and_append, ← BitVec.and_append]; rfl
    _ = _ := by simp [channelWord, Channel.number, show op &&& 15#4 = op from BitVec.and_allOnes]

/-- The operation's word fits its row of the opcode table. -/
def Statement (i : Instr) : Prop := i.row.fits (encode i) = true

theorem nop : Statement .nop := show _ = true by decide

theorem rise (c : Channel) (now : Word) : Statement (.rise c now) := by
  simp only [Statement, OpRow.fits, Instr.row, encode, mask_channelWord]; decide

theorem fall (c : Channel) (now : Word) : Statement (.fall c now) := by
  simp only [Statement, OpRow.fits, Instr.row, encode, mask_channelWord]; decide

theorem consume (c : Channel) : Statement (.consume c) := show _ = true by cases c <;> decide

theorem read (r : Reg) : Statement (.read r) := show _ = true by
  rcases r with (_ | _ | _) | (_ | _ | _) | (_ | _ | _) | (_ | _ | _) | _ | _ | _ | _ <;> decide

theorem reset : Statement .reset := show _ = true by decide

end Sys2Proof.Laws.TableRow
end

