-- ==== Sys2Proof/Laws/Step.lean ====
section
/-! SUPPORT. Fetching an operation word and stepping (R66, R69, R201). -/

namespace Sys2Proof.Machine

theorem nextOp_idle {s : State} (h : s.schedule = []) : nextOp s = (none, s) := by simp [nextOp, h]

theorem nextOp_silent {s : State} {a : Agent} {rest : List Agent} (h : s.schedule = a :: rest)
    (hq : s.stream a = []) : nextOp s = (none, s.setSchedule rest) := by simp [nextOp, h, hq]

theorem nextOp_word {s : State} {a : Agent} {rest : List Agent} {w : OpWord} {ws : List OpWord}
    (h : s.schedule = a :: rest) (hq : s.stream a = w :: ws) :
    nextOp s = (some w, (s.setSchedule rest).setStream a ws) := by simp [nextOp, h, hq]

/-- Everything fetching can do. -/
theorem nextOp_cases (s : State) :
    (s.schedule = [] ∧ nextOp s = (none, s)) ∨
    (∃ a rest, s.schedule = a :: rest ∧ s.stream a = [] ∧ nextOp s = (none, s.setSchedule rest)) ∨
    (∃ a rest w ws, s.schedule = a :: rest ∧ s.stream a = w :: ws ∧
      nextOp s = (some w, (s.setSchedule rest).setStream a ws)) := by
  cases h : s.schedule with
  | nil => exact .inl ⟨rfl, nextOp_idle h⟩
  | cons a rest =>
    cases hq : s.stream a with
    | nil => exact .inr (.inl ⟨a, rest, rfl, hq, nextOp_silent h hq⟩)
    | cons w ws => exact .inr (.inr ⟨a, rest, w, ws, rfl, hq, nextOp_word h hq⟩)

/-- The word presented is the next one, and taking it gives back the state it was presented to. -/
theorem nextOp_present (s : State) (w : OpWord) : nextOp (s.present w) = (some w, s) := by
  rw [nextOp_word (a := issuerOf w) (rest := s.schedule) (w := w) (ws := s.stream (issuerOf w))]
  · simp [State.present, setStream_setSchedule]
  · rfl
  · simp [State.present]

/-- A step on a presented word performs exactly that word, on the state it was presented to. -/
theorem step_present (s : State) (w : OpWord) : step (s.present w) = runWord w s := by
  simp [step, nextOp_present]

/-- `withFetchWord` makes the very next step run the table's word (log 9). -/
theorem step_withFetchWord (s : State) (nbits w : Nat) :
    step (s.withFetchWord nbits w) = runWord (tableWord nbits w) s := step_present s _

theorem runWord_legal {w : OpWord} {i : Instr} (h : decode w = .ok i) (s : State) : runWord w s = exec i s := by
  simp [runWord, h]

theorem runWord_illegal {w : OpWord} {r : IllegalReason} (h : decode w = .error r) (s : State) :
    runWord w s = .refused (.illegalWord w r) := by simp [runWord, h]

/-- Everything a step that goes on can have done. -/
theorem step_cases {s t : State} (h : step s = .next t) :
    (s.schedule = [] ∧ t = s) ∨
    (∃ a rest, s.schedule = a :: rest ∧ s.stream a = [] ∧ t = s.setSchedule rest) ∨
    (∃ a rest w ws i, s.schedule = a :: rest ∧ s.stream a = w :: ws ∧ decode w = .ok i ∧
      exec i ((s.setSchedule rest).setStream a ws) = .next t) := by
  rcases nextOp_cases s with ⟨hs, hn⟩ | ⟨a, rest, hs, hq, hn⟩ | ⟨a, rest, w, ws, hs, hq, hn⟩
  · simp only [step, hn] at h; cases h; exact .inl ⟨hs, rfl⟩
  · simp only [step, hn] at h; cases h; exact .inr (.inl ⟨a, rest, hs, hq, rfl⟩)
  · simp only [step, hn] at h
    cases hd : decode w with
    | error r => simp [runWord_illegal hd] at h
    | ok i => exact .inr (.inr ⟨a, rest, w, ws, i, hs, hq, hd, by rwa [runWord_legal hd] at h⟩)

theorem coreRun_next {M : Host.Core} {s t : M.State} (h : M.step s = .next t) (n : Nat) :
    M.run (n + 1) s = M.run n t := by simp [Host.Core.run, h]

theorem coreRun_refused {M : Host.Core} {s : M.State} {q : M.Refusal} (h : M.step s = .refused q) (n : Nat) :
    M.run (n + 1) s = .refused q := by simp [Host.Core.run, h]

theorem runSteps_succ_next {s t : State} (h : step s = .next t) (n : Nat) : runSteps (n + 1) s = runSteps n t := by
  simp [runSteps, h]

theorem runSteps_succ_refused {s : State} {q : Refusal} (h : step s = .refused q) (n : Nat) :
    runSteps (n + 1) s = .refused q := by simp [runSteps, h]

/-- `runSteps` is the host's run of this machine. -/
theorem runSteps_eq_core (n : Nat) (s : State) : runSteps n s = Host.Core.run core n s := by
  induction n generalizing s with
  | zero => rfl
  | succ n ih =>
    cases h : step s with
    | next t => exact (runSteps_succ_next h n).trans ((ih t).trans (coreRun_next (M := core) h n).symm)
    | fault f => exact nomatch f
    | refused q => exact (runSteps_succ_refused h n).trans (coreRun_refused (M := core) h n).symm

/-- An invariant of the block packaged once: what does not read the environment's side and every operation keeps, every
step keeps. -/
theorem step_keeps {P : State → Prop} (hl : ∀ s l, P s → P (s.setSchedule l))
    (hq : ∀ s a ws, P s → P (s.setStream a ws)) (hx : ∀ i s t, P s → exec i s = .next t → P t) {s t : State}
    (hs : P s) (h : step s = .next t) : P t := by
  rcases step_cases h with ⟨-, rfl⟩ | ⟨a, rest, -, -, rfl⟩ | ⟨a, rest, w, ws, i, -, -, -, hi⟩
  · exact hs
  · exact hl _ _ hs
  · exact hx i _ t (hq _ _ _ (hl _ _ hs)) hi

/-- The duty of R212 (a), change by change. -/
@[simp] theorem inOrder_cons_cons (e f : LineChange) (rest : List LineChange) :
    inOrder (e :: f :: rest) = true ↔ (e.time ≤ f.time ∧ f.time < e.time + 2 ^ 32) ∧ inOrder (f :: rest) = true := by
  simp [inOrder]

@[simp] theorem inOrder_single (e : LineChange) : inOrder [e] = true := rfl

end Sys2Proof.Machine
end

