-- ==== Sys2Proof/Tests/Slice0.lean ====
section
/-! SUPPORT. Tests whose expected results come from 30_encoding.md and 95_test_vectors.md (the vector is named at each),
and for every obligation with hypotheses a witness that meets them. -/

namespace Sys2Proof.Tests

open Sys2Proof.Machine

/-- The state an outcome goes on to. -/
def nextOf : Host.Outcome State Fault Refusal → Option State
  | .next s => some s
  | .fault _ => none
  | .refused _ => none

/-- Power-on with one channel's bank replaced. -/
def withBank (guard : Bool) (c : Channel) (b : Bank) : State := (State.powerOn guard).setBank c b

/-- Every channel has a width waiting and a measurement under way, a report and a response are out, and agents have
words to issue. -/
def busy : State :=
  { ch0 := ⟨1600#32, 5#32, true, true, 7#32⟩, ch1 := ⟨1500#32, 25000#32, true, true, 8#32⟩,
    ch2 := ⟨2000#32, 5000#32, true, true, 9#32⟩, out := ⟨true, 1#8, 2#8, 3#8, 4#8⟩, reports := [⟨.color, 3#32⟩],
    powerGuard := true, responses := [⟨.config, 0x00032001#32⟩],
    streams := ⟨[0x10000003E8#40], [0x2100006658#40], [], [0x3000000000#40, 0x4F00000000#40], [0x5000000000#40]⟩,
    schedule := [.consumer, .edge .color, .host] }

/-! ## Well-formedness: an ill-formed word for each case of R90 -/

theorem test_case_a_refused : illegalOpcode 0x6000000000#40 = true ∧ OpWord.wellFormed 0x6000000000#40 = false := by
  decide
theorem test_case_b_refused : illegalReserved 0x14000003E8#40 = true ∧ OpWord.wellFormed 0x14000003E8#40 = false := by
  decide
theorem test_case_c_refused : illegalChannel 0x13000003E8#40 = true ∧ OpWord.wellFormed 0x13000003E8#40 = false := by
  decide
theorem test_case_d_refused : illegalData 0x4F00000001#40 = true ∧ OpWord.wellFormed 0x4F00000001#40 = false := by
  decide
theorem test_case_e_refused : illegalZeroFormat 0x5100000000#40 = true ∧ OpWord.wellFormed 0x5100000000#40 = false := by
  decide

/-! ## Decoding: words written bit by bit from R81, and 95_test_vectors.md 2.4 -/

theorem test_decode_nop : decode 0b0000000000000000000000000000000000000000#40 = .ok .nop := by decide
theorem test_decode_rise :
    decode 0b0001000000000000000000000000001111101000#40 = .ok (.rise .power 1000#32) := by decide
theorem test_decode_fall :
    decode 0b0010000100000000000000000000100000110100#40 = .ok (.fall .color 2100#32) := by decide
theorem test_decode_consume : decode 0b0011001000000000000000000000000000000000#40 = .ok (.consume .bright) := by decide
theorem test_decode_read : decode 0b0100111000000000000000000000000000000000#40 = .ok (.read .outRgb) := by decide
theorem test_decode_read_status : decode 0b0100011000000000000000000000000000000000#40 = .ok (.read (.status .color)) := by
  decide
theorem test_decode_reset : decode 0b0101000000000000000000000000000000000000#40 = .ok .reset := by decide

/-- DEC-9, 11, 13, 15, 16, 17, 18, 21. -/
theorem test_decode_refusals :
    decode 0x6000000000#40 = .error .reservedOpcode ∧ decode 0x8000000000#40 = .error .reservedOpcode ∧
    decode 0x2C00000000#40 = .error .nonzeroReserved ∧ decode 0x2300000000#40 = .error .noSuchChannel ∧
    decode 0x3300000000#40 = .error .noSuchChannel ∧ decode 0x3000000001#40 = .error .nonzeroData ∧
    decode 0x0000000001#40 = .error .nonzeroData ∧ decode 0x0100000000#40 = .error .nonzeroReserved := by decide

/-- R88 and R89's examples. -/
theorem test_encode_examples :
    encode (.rise .bright 0xFFFFFF00#32) = 0x12FFFFFF00#40 ∧ encode (.read .outRgb) = 0x4E00000000#40 ∧
    encode (.consume .color) = 0x3100000000#40 ∧ encode .reset = 0x5000000000#40 := by decide

/-- R62: the least significant byte of RISE 0, 1000 (0x10000003E8) comes first. -/
theorem test_transport : wordBytes 0x10000003E8#40 = [0xE8#8, 0x03#8, 0x00#8, 0x00#8, 0x10#8] := by decide

/-! ## Meanings: one operation on a small state -/

/-- NOP-1. -/
theorem test_nop : nextOf (exec .nop busy) = some busy := by decide

/-- CAP-6: a second RISE restarts the measurement. -/
theorem test_rise_restarts :
    nextOf (exec (.rise .color 2000#32) (withBank false .color ⟨0#32, 1000#32, true, false, 0#32⟩)) =
      some (withBank false .color ⟨0#32, 2000#32, true, false, 0#32⟩) := by decide

/-- CAP-15: RISE leaves WIDTH and NEW. -/
theorem test_rise_keeps_new_width :
    nextOf (exec (.rise .color 25000#32) (withBank false .color ⟨1500#32, 0#32, false, true, 0#32⟩)) =
      some (withBank false .color ⟨1500#32, 25000#32, true, true, 0#32⟩) := by decide

/-- CAP-4, the wrap, and CAP-16, the unguarded Idle FALL over a waiting width. -/
theorem test_fall_accepted :
    nextOf (exec (.fall .color 0x10#32) (withBank false .color ⟨0#32, 0xFFFFFFF0#32, true, false, 0#32⟩)) =
      some (withBank false .color ⟨0x20#32, 0#32, false, true, 0#32⟩) ∧
    nextOf (exec (.fall .power 2600#32) (withBank false .power ⟨1600#32, 0#32, false, true, 0#32⟩)) =
      some (withBank false .power ⟨2600#32, 0#32, false, true, 0#32⟩) := by decide

/-- CAP-7, a guarded channel with NEW set, and CAP-12, channel 0 Idle under POWER_GUARD. -/
theorem test_fall_rejected :
    nextOf (exec (.fall .color 26200#32) (withBank false .color ⟨1500#32, 25000#32, true, true, 0#32⟩)) =
      some (withBank false .color ⟨1500#32, 25000#32, true, true, 0#32⟩) ∧
    nextOf (exec (.fall .power 1500#32) (State.powerOn true)) = some (State.powerOn true) := by decide

/-- CON-5: the measurement in progress goes on. -/
theorem test_consume_bright :
    (nextOf (exec (.consume .bright) (withBank false .bright ⟨2000#32, 5000#32, true, true, 0#32⟩))).map
        (fun t => (t.ch2, t.out.duty, t.reports)) =
      some (⟨2000#32, 5000#32, true, false, 2000#32⟩, 255#8, [⟨.bright, 2000#32⟩]) := by decide

/-- CON-7. -/
theorem test_consume_color :
    (nextOf (exec (.consume .color) (withBank false .color ⟨1500#32, 0#32, false, true, 0#32⟩))).map
        (fun t => (t.ch1.snap, t.out.red, t.out.green, t.out.blue, t.out.power)) =
      some (1500#32, 0#8, 129#8, 126#8, false) := by decide

/-- RD-3 and RD-1 with POWER_GUARD. -/
theorem test_read_values :
    memRead { State.reset with out := ⟨false, 0#8, 0#8, 129#8, 126#8⟩ } .outRgb = 0x0000817E#32 ∧
    memRead (State.powerOn true) .config = 0x00032001#32 ∧ memRead State.reset .config = 0x00032000#32 := by decide

/-- RD-2: READ 6 of MEAS = 1, NEW = 1, answered on the response list, the state kept. -/
theorem test_read_answers :
    nextOf (exec (.read (.status .color)) busy) =
      some { busy with responses := [⟨.config, 0x00032001#32⟩, ⟨.status .color, 3#32⟩] } := by decide

/-- RST-1: the report stream and POWER_GUARD are kept. -/
theorem test_reset :
    (nextOf (exec .reset busy)).map (fun t => ((t.ch0, t.ch1, t.ch2), t.out, t.reports, t.powerGuard)) =
      some ((Bank.reset, Bank.reset, Bank.reset), Outputs.reset, [⟨.color, 3#32⟩], true) := by decide

/-- P3's first edge, as the first operation after reset (CAP-9). -/
theorem test_first_step :
    nextOf (step (State.reset.withFetchWord 40 0x20000005DC)) =
      some (withBank false .power ⟨1500#32, 0#32, false, true, 0#32⟩) := by decide

/-- DEC-9 as a step: the refusal holds the word and the reason (R201). -/
theorem test_illegal_step :
    step (State.reset.withFetchWord 40 0x6000000000) = .refused (.illegalWord 0x6000000000#40 .reservedOpcode) := by
  rw [step_withFetchWord]; exact runWord_illegal (by decide) _

/-! ## Converters (95_test_vectors.md 2.1) -/

theorem test_converters :
    (lin 999, lin 1500, lin 2004, lin 4294967295) = (-1, 127, 256, 1095216405) ∧
    (powerSwitch 1499, powerSwitch 1500) = (false, true) ∧
    (brightnessDriver 500, brightnessDriver 1250, brightnessDriver 1999, brightnessDriver 2500) =
      (0#8, 63#8, 254#8, 255#8) ∧
    colorMixer 1250 = ⟨66#8, 189#8, 0#8⟩ ∧ colorMixer 1400 = ⟨0#8, 204#8, 51#8⟩ ∧
    colorMixer 1750 = ⟨63#8, 0#8, 192#8⟩ ∧ colorMixer 2000 = ⟨255#8, 0#8, 0#8⟩ := by decide

/-! ## Text and syntax -/

/-- The report lines of 95_test_vectors.md 2.3, with an empty terminator. -/
theorem test_report_lines :
    reportLine "" ⟨.power, 1600#32⟩ = "Power PWM: 1600" ∧ reportLine "" ⟨.color, 0#32⟩ = "Color PWM: 0" ∧
    reportLine "" ⟨.bright, 4294967295#32⟩ = "Bright PWM: 4294967295" := by decide

/-- P3's lines. -/
theorem test_assemble :
    assembleLine "rise  bright, 0xFFFFFF00 ; E2" = .ok [.rise .bright 0xFFFFFF00#32] ∧
    assembleLine "read  ch2.width" = .ok [.read (.width .bright)] ∧
    assembleLine "consume bright" = .ok [.consume .bright] ∧
    assemble "reset\npass\n" = .ok [.reset, .consume .power, .consume .color, .consume .bright] := by decide

/-- R98, R99, and a name outside R95. -/
theorem test_assemble_pulse_and_refusals :
    assembleLine "pulse color, 0xFFFFFFF0, 32" = .ok [.rise .color 0xFFFFFFF0#32, .fall .color 0x10#32] ∧
    assembleLine "rise 0, 4294967296" = .error .numberTooLarge ∧
    assembleLine "consume 3" = .error .badChannel ∧ assembleLine "nop 1" = .error .wrongOperandCount := by decide

/-! ## Witnesses: for each obligation with hypotheses, a state and operands that meet them together -/

theorem witness_LegalWordsNameExactlyOneOperation : 6 ≤ ((0x6000000000#40 : OpWord).extractLsb' 36 4).toNat := by decide

theorem witness_IllegalWordIsRefusedForItsFirstCase :
    firstIllegal 0x14000003E8#40 = some .nonzeroReserved ∧ firstIllegal 0x3300000001#40 = some .noSuchChannel ∧
    firstIllegal 0x0100000001#40 = some .nonzeroData ∧ firstIllegal 0x0100000000#40 = some .nonzeroReserved ∧
    firstIllegal 0xF000000000#40 = some .reservedOpcode ∧ firstIllegal 0x4F00000000#40 = none ∧
    nextIssue (State.reset.withFetchWord 40 0x14000003E8) = some (.host, 0x14000003E8#40) := by decide

theorem witness_OpcodeTableRowsAgreeWithDecode :
    decode 0x32FF000000#40 = .error .nonzeroData ∧ decode 0x12FFFFFFFF#40 = .ok (.rise .bright 0xFFFFFFFF#32) ∧
    (Instr.rise .power 0#32).row ∈ opcodeTable ∧ (Instr.rise .power 0#32).row.fits 0x13FFFFFFFF#40 = true ∧
    decode 0x13FFFFFFFF#40 = .error .noSuchChannel := by decide

theorem witness_TransportSendsLeastSignificantByteFirst :
    (4 < 5 ∧ 3 < 4 ∧ ([1#8, 2#8, 3#8, 4#8] : List Byte).length < 5) := by decide

theorem witness_StepPerformsTheDecodedOperation :
    busy.schedule = .consumer :: [.edge .color, .host] ∧
    busy.stream .consumer = 0x3000000000#40 :: [0x4F00000000#40] ∧
    decode 0x3000000000#40 = .ok (.consume .power) := by decide

theorem witness_OnlyIllegalWordsEndARun :
    ∃ q : Refusal, step (State.reset.withFetchWord 40 0x6000000000) = .refused q := ⟨_, test_illegal_step⟩

/-- The words in `busy`'s streams, each with its operation, are legal and of their agents' roles. -/
theorem busy_words (a : Agent) (w : OpWord) (hw : w ∈ busy.stream a) :
    ∃ i : Instr, decode w = .ok i ∧ mayIssue a i = true := by
  rcases a with (_ | _ | _) | _ | _ <;> simp [busy, State.stream] at hw
  · subst hw; exact ⟨.rise .power 1000#32, by decide⟩
  · subst hw; exact ⟨.fall .color 26200#32, by decide⟩
  · rcases hw with rfl | rfl
    · exact ⟨.consume .power, by decide⟩
    · exact ⟨.read .config, by decide⟩
  · subst hw; exact ⟨.reset, by decide⟩

theorem witness_LegalStreamsRunForEver : busy.legalStreams := fun a w hw =>
  (busy_words a w hw).imp fun _ h => h.1

theorem witness_NothingIssuedNothingChanges :
    State.reset.schedule = [] ∧ (State.reset.setSchedule [.edge .bright]).schedule = .edge .bright :: [] ∧
    (State.reset.setSchedule [.edge .bright]).stream (.edge .bright) = [] := by decide

/-- Three steps of `busy`: a CONSUME, a FALL and a RESET. -/
theorem witness_AgentOrderIsKept : ∃ t : State, runSteps 3 busy = .next t := ⟨_, rfl⟩

theorem witness_RunIsATotalOrderOfOperations :
    issued 3 busy = [(.consumer, 0x3000000000#40), (.edge .color, 0x2100006658#40), (.host, 0x5000000000#40)] ∧
    ∃ t : State, runSteps 3 busy = .next t := ⟨by decide, _, rfl⟩

theorem witness_EveryInterleavingIsAdmitted :
    ∀ p ∈ ([(.host, 0x5000000000#40), (.edge .power, 0x10000003E8#40)] : List (Agent × OpWord)),
      ∃ i : Instr, decode p.2 = .ok i := by
  intro p hp
  simp only [List.mem_cons, List.not_mem_nil, or_false] at hp
  rcases hp with rfl | rfl
  · exact ⟨.reset, by decide⟩
  · exact ⟨.rise .power 1000#32, by decide⟩

theorem witness_PowerOnStateIsAllZero : ∃ t : State, exec .reset busy = .next t := ⟨_, rfl⟩

theorem witness_FirstFallAfterReset : (Channel.color ≠ .power ∨ false = true) ∧ (Channel.power ≠ .power ∨ true = true) := by
  decide

/-- Accepted unguarded, accepted Measuring, rejected Idle, rejected with NEW set. -/
theorem witness_FallRecordsTheWidthOrIsRejected :
    (Channel.power = .power ∧ State.reset.powerGuard = false) ∧
    (((withBank true .power ⟨0#32, 9#32, true, false, 0#32⟩).bank .power).meas = true ∧
      ((withBank true .power ⟨0#32, 9#32, true, false, 0#32⟩).bank .power).new = false) ∧
    ¬((Channel.color = .power ∧ State.reset.powerGuard = false) ∨
      ((State.reset.bank .color).meas = true ∧ (State.reset.bank .color).new = false)) ∧
    ¬((Channel.power = .power ∧ busy.powerGuard = false) ∨
      ((busy.bank .power).meas = true ∧ (busy.bank .power).new = false)) := by decide

theorem powerOn_idleStartsZero (g : Bool) : (State.powerOn g).idleStartsZero := fun c _ => by
  simp [Bank.reset]

theorem witness_IdleFallOnChannelZero :
    ((State.powerOn false).idleStartsZero ∧ ((State.powerOn false).bank .power).meas = false ∧
      (State.powerOn false).powerGuard = false) ∧
    ((State.powerOn true).idleStartsZero ∧ ((State.powerOn true).bank .power).meas = false ∧
      (State.powerOn true).powerGuard = true) :=
  ⟨⟨powerOn_idleStartsZero _, by decide⟩, ⟨powerOn_idleStartsZero _, by decide⟩⟩

/-- Other channels' edges and a CONSUME of the channel itself between its edges, the time base wrapping. -/
theorem witness_CapturedWidthIsExact :
    (∀ i ∈ ([.consume .color, .rise .power 1#32, .fall .bright 2#32] : List Instr),
      i.isEdgeOf .color = false ∧ i ≠ .reset) ∧
    (∃ u : State, execAll (.rise .color 0xFFFFFFF0#32 :: [.consume .color, .rise .power 1#32, .fall .bright 2#32]) busy =
      .next u ∧ accept u .color = true) ∧ (0x10#32 : Word) = 0xFFFFFFF0#32 + 0x20#32 :=
  ⟨by decide, ⟨_, rfl, by decide⟩, by decide⟩

theorem witness_WidthIsTheTrueLengthModuloTheTimeBase :
    0 ≤ 4294967296 ∧ (∀ i ∈ ([.consume .color] : List Instr), i.isEdgeOf .color = false ∧ i ≠ .reset) ∧
    ∃ u : State, execAll (edgeOperation .color ⟨0, true⟩ :: [.consume .color]) busy = .next u ∧ accept u .color = true :=
  ⟨by decide, by decide, ⟨_, rfl, by decide⟩⟩

theorem witness_UnconsumedWidths :
    ((Channel.color ≠ .power ∨ busy.powerGuard = true) ∧ (busy.bank .color).new = true ∧
      (∀ i ∈ ([.fall .color 9#32, .rise .color 3#32, .consume .power] : List Instr), i ≠ .consume .color ∧ i ≠ .reset) ∧
      ∃ t : State, execAll [.fall .color 9#32, .rise .color 3#32, .consume .power] busy = .next t) ∧
    ((withBank false .power ⟨1400#32, 25000#32, true, true, 0#32⟩).powerGuard = false ∧
      ((withBank false .power ⟨1400#32, 25000#32, true, true, 0#32⟩).bank .power).new = true) :=
  ⟨⟨by decide, by decide, by decide, ⟨_, rfl⟩⟩, by decide⟩

theorem witness_MeasuringHasNoTimeout :
    ∀ i ∈ ([.rise .bright 4#32, .consume .bright, .fall .color 5#32] : List Instr),
      i.isFallOf .bright = false ∧ i ≠ .reset := by decide

theorem witness_EdgesOnDistinctChannelsAreIsolated :
    (Channel.power ≠ .color ∧ (Instr.fall .power 7#32).isEdgeOf .power = true ∧
      (Instr.rise .color 7#32).isEdgeOf .color = true) ∧
    (∀ i ∈ ([.rise .power 1#32, .fall .color 2#32] : List Instr), ∃ d : Channel, i.isEdgeOf d = true) ∧
    ∃ t : State, execAll [.rise .power 1#32, .fall .color 2#32] busy = .next t := by
  refine ⟨by decide, fun i hi => ?_, ⟨_, rfl⟩⟩
  simp only [List.mem_cons, List.not_mem_nil, or_false] at hi
  rcases hi with rfl | rfl
  · exact ⟨.power, by decide⟩
  · exact ⟨.color, by decide⟩

theorem witness_ChannelOperationsCommute :
    Channel.power ≠ .color ∧ (Instr.consume .power).onChannel .power = true ∧
    (Instr.consume .color).onChannel .color = true := by decide

theorem witness_FallAndConsumeOrderMatters :
    (((withBank false .bright ⟨0#32, 1200#32, true, false, 0#32⟩).bank .bright).meas = true ∧
      ((withBank false .bright ⟨0#32, 1200#32, true, false, 0#32⟩).bank .bright).new = false) ∧
    (Channel.power = .power ∧ (withBank false .power ⟨1400#32, 25000#32, true, true, 0#32⟩).powerGuard = false) ∧
    ((Channel.bright ≠ .power ∨ (withBank false .bright ⟨2000#32, 5000#32, true, true, 0#32⟩).powerGuard = true) ∧
      ((withBank false .bright ⟨2000#32, 5000#32, true, true, 0#32⟩).bank .bright).new = true ∧
      ((withBank false .bright ⟨2000#32, 5000#32, true, true, 0#32⟩).bank .bright).meas = true) ∧
    (((withBank false .bright ⟨2000#32, 0#32, false, true, 0#32⟩).bank .bright).new = true ∧
      ((withBank false .bright ⟨2000#32, 0#32, false, true, 0#32⟩).bank .bright).meas = false) := by decide

/-- Each clause: an operation that writes no bank, a FALL that sets NEW, a CONSUME that clears it, an edge that writes no
output, and an agent in its role. -/
theorem witness_WritersAreExclusive :
    ((∃ t : State, exec (.consume .color) busy = .next t) ∧ (Instr.consume .color).isEdgeOf .power = false) ∧
    (∃ t : State, exec (.fall .power 5#32) State.reset = .next t ∧ (State.reset.bank .power).new = false ∧
      (t.bank .power).new = true) ∧
    (∃ t : State, exec (.consume .power) busy = .next t ∧ (busy.bank .power).new = true ∧
      (t.bank .power).new = false) ∧
    (Instr.rise .power 0#32 ≠ .consume .power ∧ Instr.rise .power 0#32 ≠ .reset) ∧
    (mayIssue (.edge .power) (.rise .power 0#32) = true ∧ mayIssue .consumer (.consume .color) = true ∧
      mayIssue .host .reset = true) :=
  ⟨⟨⟨_, rfl⟩, by decide⟩, ⟨_, rfl, by decide, by decide⟩, ⟨_, rfl, by decide, by decide⟩, by decide, by decide⟩

theorem witness_ChannelsAreIsolated :
    (Instr.consume .bright).onChannel .bright = true ∧
    (busy.setBank .power Bank.reset).bank .bright = busy.bank .bright ∧
    (busy.setBank .power Bank.reset).powerGuard = busy.powerGuard ∧
    (busy.setBank .power Bank.reset).out.boundTo .bright = busy.out.boundTo .bright := by decide

theorem witness_IdleChannelsStartAtZero :
    (State.reset.withFetchWord 40 0x10000003E8).idleStartsZero ∧
    ∃ t : State, step (State.reset.withFetchWord 40 0x10000003E8) = .next t := by
  refine ⟨fun c _ => ?_, ⟨_, rfl⟩⟩
  cases c <;> rfl

/-- The snapshots 0, 0, 0 and the outputs of a colour conversion still to come; the step is the CONSUME of a width. -/
theorem witness_StepKeepsOutputsShowingSnapshots :
    ((withBank false .color ⟨1500#32, 0#32, false, true, 0#32⟩).withFetchWord 40 0x3100000000).outputsShowSnapshots ∧
    ∃ t : State, step ((withBank false .color ⟨1500#32, 0#32, false, true, 0#32⟩).withFetchWord 40 0x3100000000) =
      .next t := ⟨⟨by decide, by decide, .inr (by decide)⟩, ⟨_, rfl⟩⟩

/-- Roles are kept in `busy`, and its first step, the consumer's, changes SNAP[0]. -/
theorem witness_RoleKeepingAgentsWriteTheirOwn :
    busy.rolesKept ∧ ∃ t : State, step busy = .next t ∧ (t.bank .power).snap ≠ (busy.bank .power).snap := by
  refine ⟨fun a w hw i hi => ?_, ⟨_, rfl, by decide⟩⟩
  obtain ⟨j, hj, hm⟩ := busy_words a w hw
  rw [hi] at hj
  cases hj
  exact hm

theorem witness_StreamsAreAppendOnly : ∃ t : State, step busy = .next t := ⟨_, rfl⟩

theorem witness_ConfigurationIsConstant :
    (∃ t : State, exec .reset busy = .next t) ∧ ∃ t : State, step busy = .next t := ⟨⟨_, rfl⟩, ⟨_, rfl⟩⟩

theorem witness_ConsumeTakesTheNewWidth :
    (busy.bank .color).new = true ∧ (State.reset.bank .color).new = false := by decide

/-- Between the two CONSUMEs a FALL that the guard rejects, and another channel's operations. -/
theorem witness_SecondConsumeChangesNothing :
    ∃ s' t : State, exec (.consume .color) (withBank false .color ⟨1500#32, 0#32, false, true, 0#32⟩) = .next s' ∧
      noAcceptedFall .color [.fall .color 9#32, .rise .power 1#32] s' ∧
      (∀ i ∈ ([.fall .color 9#32, .rise .power 1#32] : List Instr), i ≠ .reset) ∧
      execAll [.fall .color 9#32, .rise .power 1#32] s' = .next t := by
  refine ⟨_, _, rfl, ⟨fun _ => by decide, fun t _ => ⟨fun h => absurd h (by decide), fun _ _ => trivial⟩⟩, by decide, rfl⟩

theorem witness_AcceptedWidthsAreConsumedExactlyOnce :
    (Channel.bright ≠ .power ∨ busy.powerGuard = true) ∧
    (∀ i ∈ ([.consume .bright, .fall .bright 6000#32, .consume .bright] : List Instr), i ≠ .reset) ∧
    (∃ t : State, execAll [.consume .bright, .fall .bright 6000#32, .consume .bright] busy = .next t) ∧
    acceptedWidths .bright [.consume .bright, .fall .bright 6000#32, .consume .bright] busy = [1000#32] :=
  ⟨by decide, by decide, ⟨_, rfl⟩, by decide⟩

theorem witness_ReportsAreAcceptedWidths :
    ∃ t : State, execAll [.fall .power 5#32, .fall .power 6#32, .consume .power] State.reset = .next t := ⟨_, rfl⟩

/-- Both sides of the threshold. -/
theorem witness_PowerSwitchThreshold : (1499 : Int) < 1500 ∧ (1500 : Int) ≤ 1500 := by decide

/-- The ends of the three clauses: 1003, 2000, and 1000 and 2000 of the middle one, which agree where they meet. -/
theorem witness_BrightnessIsTheSaturatedFloor :
    (1003 : Int) ≤ 1003 ∧ (2000 : Int) ≤ 2000 ∧ ((1000 : Int) ≤ 1000 ∧ (1000 : Int) ≤ 2000) ∧
    brightnessDriver 1003 = 0#8 ∧ brightnessDriver 1004 = 1#8 ∧ brightnessDriver 2000 = 255#8 := by decide

/-- k at both ends. -/
theorem witness_ConverterInputBands :
    ((1 : Int) ≤ 1 ∧ (1 : Int) ≤ 255 ∧ 1 ≤ lin 1004) ∧ ((1 : Int) ≤ 255 ∧ (255 : Int) ≤ 255 ∧ 255 ≤ lin 2000) := by decide

/-- The hue at the ends of each segment. -/
theorem witness_ColorMixerSegments :
    (hue 1333).toNat = 84 ∧ (hue 1334).toNat = 85 ∧ (hue 1666).toNat = 169 ∧ (hue 1667).toNat = 170 := by decide

theorem witness_OutputStageChangesNothing :
    (0 : Int) ≤ 255 ∧ (255 : Int) ≤ 255 ∧
    (255 : Int) ∈ [(rgbExact 255).1, (rgbExact 255).2.1, (rgbExact 255).2.2] := by decide

theorem witness_ConvertersAreMonotoneAndContinuous :
    ((1499 : Int) ≤ 1500 ∧ powerSwitch 1500 = true) ∧ ((0 : Int) ≤ 254 ∧ (254 : Int) < 255) := by decide

theorem witness_ReportLineShowsTheValue : (decimal 0#32).toList.head? = some '0' := by decide

/-- Upper case as P3 writes it, lower case, a mixture, and the first number too large. -/
theorem test_parse_hex :
    parseNumber "0xFFFFFF00" = .ok 0xFFFFFF00#32 ∧ parseNumber "0x4dc" = .ok 1244#32 ∧
    parseNumber "0xFf" = .ok 255#32 ∧ parseNumber "0x100000000" = .error .numberTooLarge := by decide

theorem witness_AssemblerNumbersAreNeverReduced :
    ['F', 'f', '0'].map Char.toLower = Nat.toDigits 16 4080 := by decide

theorem witness_AssemblerNamesFollowTheirPosition :
    registerNames[Reg.config.index.toNat]? = some "config" ∧
    registerNumbers[(Reg.width .power).index.toNat]? = some "r0" := by decide

theorem witness_PulseMeasuresItsWidth :
    (Channel.power = .power ∧ State.reset.powerGuard = false) ∧ (State.reset.bank .color).new = false := by decide

theorem witness_AgentsKeepTheirRoles :
    0x2100000834#40 ∈ edgeStream .color [⟨1100, true⟩, ⟨2100, false⟩] ∧ 0x3200000000#40 ∈ referenceStream 1 := by decide

/-- The longest interval that R212 (a) allows; one a microsecond longer, or a change before the last, breaks the duty. -/
theorem test_inOrder_bounds :
    inOrder [⟨7, true⟩, ⟨4294967302, false⟩, ⟨4294967302, true⟩] = true ∧
    inOrder [⟨7, true⟩, ⟨4294967303, false⟩] = false ∧ inOrder [⟨7, true⟩, ⟨6, false⟩] = false := by decide

theorem witness_LineChangesAreMeasured :
    (7 ≤ 4294967303 ∧ (State.reset.bank .bright).new = false) ∧
    inOrder [⟨4294967040, true⟩, ⟨4294968540, false⟩] = true ∧ inOrder [⟨7, true⟩, ⟨4294967302, false⟩] = true ∧
    (State.reset.bank .bright).new = false := by decide

end Sys2Proof.Tests
end

section
/-! The state and its invariants (10_state.md): what one operation can do to each part of the state, what that means
for a step, and the statements of the family. -/

namespace Sys2Proof.Machine

/-! ## What one operation does to a bank, to the outputs, to the streams -/

/-- RESET leaves every bank as at power-on (R49, R230). -/
theorem bank_of_execReset {s t : State} (h : exec .reset s = .next t) (c : Channel) : t.bank c = Bank.reset := by
  cases h; cases c <;> rfl

/-- RESET leaves the outputs as at power-on (R49, R230). -/
theorem out_of_execReset {s t : State} (h : exec .reset s = .next t) : t.out = Outputs.reset := by
  cases h; rfl

/-- Everything an operation can do to one bank: only the channel's own RISE, accepted FALL and effective CONSUME, and
RESET, write it (R28, R29). -/
theorem exec_bank_cases {i : Instr} {s t : State} (h : exec i s = .next t) (c : Channel) :
    t.bank c = s.bank c ∨
    (∃ now, i = .rise c now ∧ t.bank c = (s.bank c).rise now) ∨
    (∃ now, i = .fall c now ∧ accept s c = true ∧ t.bank c = (s.bank c).fall now) ∨
    (i = .consume c ∧ (s.bank c).new = true ∧ t.bank c = (s.bank c).consume) ∨
    (i = .reset ∧ t.bank c = Bank.reset) := by
  rcases exec_cases h with ⟨rfl, -⟩ | ⟨d, now, rfl, rfl⟩ | ⟨d, now, rfl, ha, rfl⟩ | ⟨d, rfl, hn, rfl⟩ |
    ⟨r, rfl, rfl⟩ | ⟨rfl, -⟩
  · exact .inl rfl
  · by_cases hc : c = d
    · subst hc; exact .inr (.inl ⟨now, rfl, by simp⟩)
    · exact .inl (by simp [hc])
  · by_cases hc : c = d
    · subst hc; exact .inr (.inr (.inl ⟨now, rfl, ha, by simp⟩))
    · exact .inl (by simp [hc])
  · by_cases hc : c = d
    · subst hc; exact .inr (.inr (.inr (.inl ⟨rfl, hn, by simp⟩)))
    · exact .inl (by simp [hc])
  · exact .inl (by simp)
  · exact .inr (.inr (.inr (.inr ⟨rfl, bank_of_execReset h c⟩)))

/-- Everything an operation can do to the outputs: an effective CONSUME converts into them, RESET clears them (R28). -/
theorem exec_out_cases {i : Instr} {s t : State} (h : exec i s = .next t) :
    t.out = s.out ∨
    (∃ c, i = .consume c ∧ (s.bank c).new = true ∧ t.out = convert c (s.bank c).width s.out) ∨
    (i = .reset ∧ t.out = Outputs.reset) := by
  rcases exec_cases h with ⟨rfl, -⟩ | ⟨d, now, rfl, rfl⟩ | ⟨d, now, rfl, -, rfl⟩ | ⟨d, rfl, hn, rfl⟩ |
    ⟨r, rfl, rfl⟩ | ⟨rfl, rfl⟩
  · exact .inl rfl
  · exact .inl (by simp)
  · exact .inl (by simp)
  · exact .inr (.inl ⟨d, rfl, hn, by simp⟩)
  · exact .inl rfl
  · exact .inr (.inr ⟨rfl, rfl⟩)

/-- No operation changes POWER_GUARD (R51) or the environment's side (log 1). -/
theorem exec_sameEnvironment {i : Instr} {s t : State} (h : exec i s = .next t) : s.sameEnvironment t := by
  rcases exec_cases h with ⟨rfl, -⟩ | ⟨d, now, rfl, rfl⟩ | ⟨d, now, rfl, -, rfl⟩ | ⟨d, rfl, -, rfl⟩ |
    ⟨r, rfl, rfl⟩ | ⟨rfl, rfl⟩ <;> simp [State.sameEnvironment]

theorem exec_powerGuard {i : Instr} {s t : State} (h : exec i s = .next t) : t.powerGuard = s.powerGuard :=
  (exec_sameEnvironment h).1

theorem exec_stream {i : Instr} {s t : State} (h : exec i s = .next t) (a : Agent) : t.stream a = s.stream a := by
  obtain ⟨-, hq, -⟩ := exec_sameEnvironment h
  rcases a with (_ | _ | _) | _ | _ <;> simp only [State.stream, hq]

/-- Only an effective CONSUME reports, once (R37, R140). -/
theorem exec_reports_cases {i : Instr} {s t : State} (h : exec i s = .next t) :
    t.reports = s.reports ∨ ∃ c v, t.reports = s.reports ++ [⟨c, v⟩] := by
  rcases exec_cases h with ⟨rfl, -⟩ | ⟨d, now, rfl, rfl⟩ | ⟨d, now, rfl, -, rfl⟩ | ⟨d, rfl, -, rfl⟩ |
    ⟨r, rfl, rfl⟩ | ⟨rfl, rfl⟩
  · exact .inl rfl
  · exact .inl (by simp)
  · exact .inl (by simp)
  · exact .inr ⟨d, (s.bank d).width, by simp⟩
  · exact .inl rfl
  · exact .inl rfl

/-- Only READ answers, once (R147, log 3). -/
theorem exec_responses_cases {i : Instr} {s t : State} (h : exec i s = .next t) :
    t.responses = s.responses ∨ ∃ r v, t.responses = s.responses ++ [⟨r, v⟩] := by
  rcases exec_cases h with ⟨rfl, -⟩ | ⟨d, now, rfl, rfl⟩ | ⟨d, now, rfl, -, rfl⟩ | ⟨d, rfl, -, rfl⟩ |
    ⟨r, rfl, rfl⟩ | ⟨rfl, rfl⟩
  · exact .inl rfl
  · exact .inl (by simp)
  · exact .inl (by simp)
  · exact .inl (by simp)
  · exact .inr ⟨r, memRead s r, rfl⟩
  · exact .inl rfl

/-! ## What is left alone by other writers (R28) -/

/-- WIDTH, START and MEAS are written by the channel's edges and RESET only. -/
theorem exec_keeps_measurement {i : Instr} {s t : State} {c : Channel} (h : exec i s = .next t)
    (he : i.isEdgeOf c = false) (hr : i ≠ .reset) :
    (t.bank c).width = (s.bank c).width ∧ (t.bank c).start = (s.bank c).start ∧
      (t.bank c).meas = (s.bank c).meas := by
  rcases exec_bank_cases h c with hb | ⟨now, rfl, -⟩ | ⟨now, rfl, -, -⟩ | ⟨-, -, hb⟩ | ⟨rfl, -⟩
  · simp [hb]
  · simp [Instr.isEdgeOf] at he
  · simp [Instr.isEdgeOf] at he
  · simp [hb, Bank.consume]
  · exact absurd rfl hr

/-- NEW is set by an accepted FALL of the channel only. -/
theorem exec_sets_new {i : Instr} {s t : State} {c : Channel} (h : exec i s = .next t)
    (h0 : (s.bank c).new = false) (h1 : (t.bank c).new = true) : i.isFallOf c = true ∧ accept s c = true := by
  rcases exec_bank_cases h c with hb | ⟨now, -, hb⟩ | ⟨now, rfl, ha, -⟩ | ⟨-, -, hb⟩ | ⟨-, hb⟩
  · simp [hb, h0] at h1
  · simp [hb, Bank.rise, h0] at h1
  · exact ⟨by simp [Instr.isFallOf], ha⟩
  · simp [hb, Bank.consume] at h1
  · simp [hb, Bank.reset] at h1

/-- NEW is cleared by a CONSUME of the channel and RESET only. -/
theorem exec_clears_new {i : Instr} {s t : State} {c : Channel} (h : exec i s = .next t)
    (h1 : (s.bank c).new = true) (h0 : (t.bank c).new = false) : i = .consume c ∨ i = .reset := by
  rcases exec_bank_cases h c with hb | ⟨now, -, hb⟩ | ⟨now, -, -, hb⟩ | ⟨hi, -, -⟩ | ⟨hi, -⟩
  · simp [hb, h1] at h0
  · simp [hb, Bank.rise, h1] at h0
  · simp [hb, Bank.fall] at h0
  · exact .inl hi
  · exact .inr hi

/-- SNAP is written by a CONSUME of the channel and RESET only. -/
theorem exec_keeps_snap {i : Instr} {s t : State} {c : Channel} (h : exec i s = .next t)
    (hc : i ≠ .consume c) (hr : i ≠ .reset) : (t.bank c).snap = (s.bank c).snap := by
  rcases exec_bank_cases h c with hb | ⟨now, -, hb⟩ | ⟨now, -, -, hb⟩ | ⟨hi, -, -⟩ | ⟨hi, -⟩
  · rw [hb]
  · rw [hb, Bank.rise]
  · rw [hb, Bank.fall]
  · exact absurd hi hc
  · exact absurd hi hr

/-- A channel's outputs are written by its CONSUME and RESET only. -/
theorem exec_keeps_boundTo {i : Instr} {s t : State} {c : Channel} (h : exec i s = .next t)
    (hc : i ≠ .consume c) (hr : i ≠ .reset) : t.out.boundTo c = s.out.boundTo c := by
  rcases exec_out_cases h with ho | ⟨d, rfl, -, ho⟩ | ⟨hi, -⟩
  · rw [ho]
  · have hcd : c ≠ d := fun hcd => hc (hcd ▸ rfl)
    rw [ho, boundTo_convert_ne hcd]
  · exact absurd hi hr

/-! ## Roles (R210) -/

theorem mayIssue_edge {a : Agent} {i : Instr} {c : Channel} (h : mayIssue a i = true) (hi : i.isEdgeOf c = true) :
    a = .edge c := by
  cases i with
  | rise d now => cases a <;> simp_all [mayIssue, Instr.isEdgeOf]
  | fall d now => cases a <;> simp_all [mayIssue, Instr.isEdgeOf]
  | _ => simp [Instr.isEdgeOf] at hi

theorem mayIssue_consume {a : Agent} {c : Channel} (h : mayIssue a (.consume c) = true) : a = .consumer := by
  cases a with
  | consumer => rfl
  | _ => simp [mayIssue] at h

theorem mayIssue_reset {a : Agent} (h : mayIssue a .reset = true) : a = .host := by
  cases a with
  | host => rfl
  | _ => simp [mayIssue] at h

/-! ## What a step does -/

theorem nextIssue_word {s : State} {a : Agent} {rest : List Agent} {w : OpWord} {ws : List OpWord}
    (h : s.schedule = a :: rest) (hq : s.stream a = w :: ws) : nextIssue s = some (a, w) := by
  simp [nextIssue, h, hq]

/-- A step only takes words out of the streams (R69). -/
theorem step_stream_subset {s t : State} (h : step s = .next t) {a : Agent} {w : OpWord} (hw : w ∈ t.stream a) :
    w ∈ s.stream a := by
  rcases step_cases h with ⟨-, rfl⟩ | ⟨b, rest, -, -, rfl⟩ | ⟨b, rest, v, vs, i, -, hq, -, hx⟩
  · exact hw
  · simpa using hw
  · rw [exec_stream hx, stream_setStream] at hw
    split at hw
    · next hab => rw [hab, hq]; exact List.mem_cons_of_mem v hw
    · simpa using hw

/-- What a step does to the block (R66): nothing where no word is issued, else what the issued word's operation does to
a state with the same banks and the same other parts of the block. -/
theorem step_block_cases {s t : State} (h : step s = .next t) :
    ((∀ c, t.bank c = s.bank c) ∧ t.out = s.out ∧ t.reports = s.reports ∧ t.responses = s.responses) ∨
    (∃ a w i u, nextIssue s = some (a, w) ∧ w ∈ s.stream a ∧ decode w = .ok i ∧ exec i u = .next t ∧
      (∀ c, u.bank c = s.bank c) ∧ u.out = s.out ∧ u.reports = s.reports ∧ u.responses = s.responses) := by
  rcases step_cases h with ⟨-, rfl⟩ | ⟨a, rest, -, -, rfl⟩ | ⟨a, rest, w, ws, i, hs, hq, hd, hx⟩
  · exact .inl (by simp)
  · exact .inl (by simp)
  · exact .inr ⟨a, w, i, _, nextIssue_word hs hq, by simp [hq], hd, hx, by simp⟩

/-! ## The invariants of the block (R30, R27) -/

theorem idleStartsZero_of_reset_banks {s : State} (h : ∀ c, s.bank c = Bank.reset) : s.idleStartsZero := fun c _ => by
  rw [h c, Bank.reset]

/-- R30 at every operation: only a RISE makes START nonzero, and it sets MEAS. -/
theorem exec_keeps_idleStartsZero {i : Instr} {s t : State} (hs : s.idleStartsZero) (h : exec i s = .next t) :
    t.idleStartsZero := by
  intro c hm
  rcases exec_bank_cases h c with hb | ⟨now, -, hb⟩ | ⟨now, -, -, hb⟩ | ⟨-, -, hb⟩ | ⟨-, hb⟩
  · rw [hb] at hm ⊢; exact hs c hm
  · simp [hb, Bank.rise] at hm
  · rw [hb, Bank.fall]
  · rw [hb] at hm ⊢; exact hs c hm
  · rw [hb, Bank.reset]

/-- What outputs show depends on the outputs and the snapshots only. -/
theorem outputsShowSnapshots_congr {s t : State} (ho : t.out = s.out) (hb : ∀ c, (t.bank c).snap = (s.bank c).snap)
    (hs : s.outputsShowSnapshots) : t.outputsShowSnapshots := by
  simpa only [State.outputsShowSnapshots, ho, hb] using hs

/-- The reset values show the reset snapshots (R49): a width of 0 is OFF and duty 0. -/
theorem outputsShowSnapshots_of_reset {s : State} (ho : s.out = Outputs.reset) (hb : ∀ c, s.bank c = Bank.reset) :
    s.outputsShowSnapshots := by
  rw [State.outputsShowSnapshots, ho, hb, hb, hb]
  exact ⟨by decide, by decide, .inr (by decide)⟩

/-- An effective CONSUME converts the very width it snapshots (R140, R141). -/
theorem outputsShowSnapshots_of_convert {s t : State} {c : Channel} {v : Word} (ho : t.out = convert c v s.out)
    (hc : (t.bank c).snap = v) (hd : ∀ d, d ≠ c → (t.bank d).snap = (s.bank d).snap)
    (hs : s.outputsShowSnapshots) : t.outputsShowSnapshots := by
  obtain ⟨hp, hb, hrgb⟩ := hs
  cases c with
  | power =>
    rw [State.outputsShowSnapshots, ho, hc, hd .color (by decide), hd .bright (by decide)]
    exact ⟨rfl, hb, hrgb⟩
  | color =>
    rw [State.outputsShowSnapshots, ho, hc, hd .power (by decide), hd .bright (by decide)]
    exact ⟨hp, by simpa only [convert] using hb, .inl rfl⟩
  | bright =>
    rw [State.outputsShowSnapshots, ho, hc, hd .power (by decide), hd .color (by decide)]
    exact ⟨hp, rfl, hrgb⟩

theorem exec_keeps_outputsShowSnapshots {i : Instr} {s t : State} (hs : s.outputsShowSnapshots)
    (h : exec i s = .next t) : t.outputsShowSnapshots := by
  rcases exec_cases h with ⟨rfl, -⟩ | ⟨c, now, rfl, rfl⟩ | ⟨c, now, rfl, -, rfl⟩ | ⟨c, rfl, -, rfl⟩ |
    ⟨r, rfl, rfl⟩ | ⟨rfl, -⟩
  · exact hs
  · exact outputsShowSnapshots_congr (by simp) (fun d => exec_keeps_snap h (by simp) (by simp)) hs
  · exact outputsShowSnapshots_congr (by simp) (fun d => exec_keeps_snap h (by simp) (by simp)) hs
  · exact outputsShowSnapshots_of_convert (c := c) (v := (s.bank c).width) (by simp) (by simp [Bank.consume])
      (fun d hd => by simp [hd]) hs
  · exact outputsShowSnapshots_congr (by simp) (fun d => by simp) hs
  · exact outputsShowSnapshots_of_reset (out_of_execReset h) (bank_of_execReset h)

/-- Settles O31: R30 holds where all banks are reset, and every operation keeps it. -/
theorem idleChannelsStartAtZero : Obligations.IdleChannelsStartAtZero := by
  refine ⟨fun g => idleStartsZero_of_reset_banks (by simp), fun s t hs h => ?_, fun c s => ?_⟩
  · refine step_keeps (P := State.idleStartsZero) ?_ ?_ (fun _ _ _ => exec_keeps_idleStartsZero) hs h
    · intro s l hs c; simpa using hs c
    · intro s a ws hs c; simpa using hs c
  · exact ⟨_, execRise_eq c 0#32 s, by simp⟩

/-- Settles O32: every operation writes outputs and snapshots together or leaves both. -/
theorem stepKeepsOutputsShowingSnapshots : Obligations.StepKeepsOutputsShowingSnapshots := by
  intro s t hs h
  refine step_keeps (P := State.outputsShowSnapshots) ?_ ?_ (fun _ _ _ => exec_keeps_outputsShowSnapshots) hs h
  · intro s l hs; exact outputsShowSnapshots_congr (by simp) (by simp) hs
  · intro s a ws hs; exact outputsShowSnapshots_congr (by simp) (by simp) hs

/-! ## Who writes what (R28, R29) -/

/-- Settles O28: each clause is what one register's writers are. -/
theorem writersAreExclusive : Obligations.WritersAreExclusive := by
  refine ⟨fun c i s t h => ⟨exec_keeps_measurement h, exec_sets_new h, exec_clears_new h,
    fun hc hr => ⟨exec_keeps_snap h hc hr, exec_keeps_boundTo h hc hr⟩⟩, fun a c i hm => ⟨mayIssue_edge hm, ?_, ?_⟩⟩
  · rintro rfl; exact mayIssue_consume hm
  · rintro rfl; exact mayIssue_reset hm

/-- The operations on a channel (R29). -/
theorem onChannel_iff {i : Instr} {c : Channel} :
    i.onChannel c = true ↔ (∃ now, i = .rise c now) ∨ (∃ now, i = .fall c now) ∨ i = .consume c := by
  cases i <;> simp [Instr.onChannel]

theorem onChannel_ne {i : Instr} {c d : Channel} (hi : i.onChannel c = true) (hd : d ≠ c) : i.onChannel d = false := by
  rcases onChannel_iff.mp hi with ⟨now, rfl⟩ | ⟨now, rfl⟩ | rfl <;> simp [Instr.onChannel, hd.symm]

/-- An operation that names a channel leaves every other channel's bank and outputs (R29). -/
theorem exec_keeps_other_channel {i : Instr} {s t : State} {c d : Channel} (hi : i.onChannel c = true) (hd : d ≠ c)
    (h : exec i s = .next t) : t.bank d = s.bank d ∧ t.out.boundTo d = s.out.boundTo d := by
  have hid := onChannel_ne hi hd
  have hr : i ≠ .reset := by rintro rfl; simp [Instr.onChannel] at hi
  have hc : i ≠ .consume d := by rintro rfl; simp [Instr.onChannel] at hid
  refine ⟨?_, exec_keeps_boundTo h hc hr⟩
  rcases exec_bank_cases h d with hb | ⟨now, rfl, -⟩ | ⟨now, rfl, -, -⟩ | ⟨hi', -, -⟩ | ⟨hi', -⟩
  · exact hb
  · simp [Instr.onChannel] at hid
  · simp [Instr.onChannel] at hid
  · exact absurd hi' hc
  · exact absurd hi' hr

/-- The guard reads the channel's own bank and POWER_GUARD (R112). -/
theorem accept_congr {s s' : State} {c : Channel} (hb : s'.bank c = s.bank c) (hg : s'.powerGuard = s.powerGuard) :
    accept s' c = accept s c := by
  simp [accept, guarded, hb, hg]

/-- What an operation on a channel leaves there depends on that channel and POWER_GUARD only (R29). -/
theorem exec_agrees_on_channel {i : Instr} {s s' : State} {c : Channel} (hi : i.onChannel c = true)
    (hb : s'.bank c = s.bank c) (hg : s'.powerGuard = s.powerGuard) :
    ∃ t t', exec i s = .next t ∧ exec i s' = .next t' ∧ t'.bank c = t.bank c ∧
      (s'.out.boundTo c = s.out.boundTo c → t'.out.boundTo c = t.out.boundTo c) := by
  rcases onChannel_iff.mp hi with ⟨now, rfl⟩ | ⟨now, rfl⟩ | rfl
  · exact ⟨_, _, execRise_eq c now s, execRise_eq c now s', by simp [hb], by simp⟩
  · cases ha : accept s c with
    | true =>
      have ha' := (accept_congr hb hg).trans ha
      exact ⟨_, _, execFall_accepted ha now, execFall_accepted ha' now, by simp [hb], by simp⟩
    | false =>
      have ha' := (accept_congr hb hg).trans ha
      exact ⟨_, _, execFall_rejected ha now, execFall_rejected ha' now, hb, id⟩
  · cases hn : (s.bank c).new with
    | true =>
      have hn' : (s'.bank c).new = true := by rw [hb, hn]
      refine ⟨_, _, execConsume_new hn, execConsume_new hn', by simp [hb], fun _ => ?_⟩
      simpa [hb] using boundTo_convert_self c (s.bank c).width s'.out s.out
    | false =>
      have hn' : (s'.bank c).new = false := by rw [hb, hn]
      exact ⟨_, _, execConsume_nothing hn, execConsume_nothing hn', hb, id⟩

/-- Settles O29: the effect on the channel depends on it alone, and there is no other effect on a channel. -/
theorem channelsAreIsolated : Obligations.ChannelsAreIsolated := by
  intro c i s s' hi hb hg
  obtain ⟨t, t', h, h', hbank, hout⟩ := exec_agrees_on_channel hi hb hg
  exact ⟨t, t', h, h', hbank, hout, fun d hd => exec_keeps_other_channel hi hd h⟩

/-- A step that changes a measurement issued an edge of the channel or a RESET (R28). -/
theorem step_changes_measurement {s t : State} {c : Channel} (h : step s = .next t)
    (hne : (t.bank c).width ≠ (s.bank c).width ∨ (t.bank c).start ≠ (s.bank c).start ∨
      (t.bank c).meas ≠ (s.bank c).meas) :
    ∃ a w i, nextIssue s = some (a, w) ∧ w ∈ s.stream a ∧ decode w = .ok i ∧
      (i.isEdgeOf c = true ∨ i = .reset) := by
  rcases step_block_cases h with ⟨hb, -⟩ | ⟨a, w, i, u, hn, hw, hd, hx, hb, -⟩
  · simp [hb] at hne
  · refine ⟨a, w, i, hn, hw, hd, ?_⟩
    by_contra hi
    rw [not_or, Bool.not_eq_true] at hi
    obtain ⟨hwidth, hstart, hmeas⟩ := exec_keeps_measurement hx hi.1 hi.2
    simp [hwidth, hstart, hmeas, hb] at hne

/-- A step that changes a snapshot or a channel's outputs issued a CONSUME of the channel or a RESET (R28). -/
theorem step_changes_snapshot {s t : State} {c : Channel} (h : step s = .next t)
    (hne : (t.bank c).snap ≠ (s.bank c).snap ∨ t.out.boundTo c ≠ s.out.boundTo c) :
    ∃ a w i, nextIssue s = some (a, w) ∧ w ∈ s.stream a ∧ decode w = .ok i ∧ (i = .consume c ∨ i = .reset) := by
  rcases step_block_cases h with ⟨hb, ho, -⟩ | ⟨a, w, i, u, hn, hw, hd, hx, hb, ho, -⟩
  · simp [hb, ho] at hne
  · refine ⟨a, w, i, hn, hw, hd, ?_⟩
    by_contra hi
    rw [not_or] at hi
    simp [exec_keeps_snap hx hi.1 hi.2, exec_keeps_boundTo hx hi.1 hi.2, hb, ho] at hne

/-- Settles O33: a step only takes words out of the streams, and what it changes names the operation it issued, whose
role names the agent. -/
theorem roleKeepingAgentsWriteTheirOwn : Obligations.RoleKeepingAgentsWriteTheirOwn := by
  refine fun s t hs h => ⟨fun a w hw => hs a w (step_stream_subset h hw), fun c => ⟨fun hne => ?_, fun hne => ?_⟩⟩
  · obtain ⟨a, w, i, hn, hw, hd, hi | rfl⟩ := step_changes_measurement h hne
    · exact ⟨w, .inl (mayIssue_edge (hs a w hw i hd) hi ▸ hn)⟩
    · exact ⟨w, .inr (mayIssue_reset (hs a w hw _ hd) ▸ hn)⟩
  · obtain ⟨a, w, i, hn, hw, hd, rfl | rfl⟩ := step_changes_snapshot h hne
    · exact ⟨w, .inl (mayIssue_consume (hs a w hw _ hd) ▸ hn)⟩
    · exact ⟨w, .inr (mayIssue_reset (hs a w hw _ hd) ▸ hn)⟩

/-! ## The streams, the configuration and the register map (R37, R51, R39 to R48) -/

/-- Settles O34: what a step appends is what its operation appends. -/
theorem streamsAreAppendOnly : Obligations.StreamsAreAppendOnly := by
  intro s t h
  rcases step_block_cases h with ⟨-, -, hr, hq⟩ | ⟨a, w, i, u, -, -, -, hx, -, -, hr, hq⟩
  · exact ⟨.inl hr, .inl hq⟩
  · rw [← hr, ← hq]
    exact ⟨exec_reports_cases hx, exec_responses_cases hx⟩

theorem step_powerGuard {s t : State} (h : step s = .next t) : t.powerGuard = s.powerGuard :=
  step_keeps (P := fun u => u.powerGuard = s.powerGuard) (by simp) (by simp)
    (fun _ _ _ hu hx => (exec_powerGuard hx).trans hu) rfl h

/-- CONFIG reads POWER_GUARD and constants only (R44). -/
theorem memRead_config_congr {s t : State} (h : t.powerGuard = s.powerGuard) :
    memRead t .config = memRead s .config := by simp only [memRead, h]

/-- Settles O35: POWER_GUARD is kept, and CONFIG reads it alone. -/
theorem configurationIsConstant : Obligations.ConfigurationIsConstant :=
  ⟨fun _ _ _ h => ⟨exec_powerGuard h, memRead_config_congr (exec_powerGuard h)⟩,
    fun _ _ h => ⟨step_powerGuard h, memRead_config_congr (step_powerGuard h)⟩⟩

/-- The registers of channel c stand at the indices 4c to 4c + 3 (R39). -/
theorem ofIndex_channel (c : Channel) :
    Reg.ofIndex (BitVec.ofNat 4 (4 * c.number.toNat)) = .width c ∧
    Reg.ofIndex (BitVec.ofNat 4 (4 * c.number.toNat + 1)) = .start c ∧
    Reg.ofIndex (BitVec.ofNat 4 (4 * c.number.toNat + 2)) = .status c ∧
    Reg.ofIndex (BitVec.ofNat 4 (4 * c.number.toNat + 3)) = .snap c := by cases c <;> decide

/-- The number a bit writes. -/
theorem bit_toNat (b : Bool) : (bit b).toNat = if b then 1 else 0 := by cases b <;> rfl

/-- CHc_STATUS as a number (R42). -/
theorem statusWord_toNat (b : Bank) :
    (statusWord b).toNat = (if b.meas then 2 else 0) + (if b.new then 1 else 0) := by
  simp only [statusWord, toNat_append_eq, bit_toNat, BitVec.toNat_ofNat]
  split <;> simp

/-- OUT_POWER_R as a number (R45). -/
theorem outPowerWord_toNat (o : Outputs) : (outPowerWord o).toNat = if o.power then 1 else 0 := by
  rw [outPowerWord, toNat_append_eq, bit_toNat, BitVec.toNat_ofNat]
  omega

/-- OUT_DUTY_R as a number (R46). -/
theorem outDutyWord_toNat (o : Outputs) : (outDutyWord o).toNat = o.duty.toNat := by
  rw [outDutyWord, toNat_append_eq, BitVec.toNat_ofNat]
  omega

/-- OUT_RGB_R as a number (R47). -/
theorem outRgbWord_toNat (o : Outputs) :
    (outRgbWord o).toNat = o.red.toNat * 65536 + o.green.toNat * 256 + o.blue.toNat := by
  simp only [outRgbWord, toNat_append_eq, BitVec.toNat_ofNat]
  omega

/-- CONFIG for both values of POWER_GUARD (R44). -/
theorem configWord_eq (g : Bool) : configWord g = if g then 0x00032001#32 else 0x00032000#32 := by
  cases g <;> decide

/-- Settles O42: the register at each index, then what each register reads. -/
theorem registerMapValues : Obligations.RegisterMapValues := by
  refine ⟨fun s c => ?_, fun s => ⟨outPowerWord_toNat s.out, outDutyWord_toNat s.out, outRgbWord_toNat s.out,
    configWord_eq s.powerGuard⟩⟩
  obtain ⟨hwidth, hstart, hstatus, hsnap⟩ := ofIndex_channel c
  rw [hwidth, hstart, hstatus, hsnap]
  exact ⟨rfl, rfl, statusWord_toNat _, rfl⟩

/-! ## Idle steps and power-on (log 2, R49, R50) -/

/-- Settles O11: fetching finds no word in either case. -/
theorem nothingIssuedNothingChanges : Obligations.NothingIssuedNothingChanges := by
  refine ⟨fun s hs => ?_, fun s a rest hs hq => ?_⟩
  · simp [step, nextOp_idle hs]
  · simp [step, nextOp_silent hs hq, State.setSchedule]

/-- Settles O16: every element at power-on is read off, and RESET leaves those values. -/
theorem powerOnStateIsAllZero : Obligations.PowerOnStateIsAllZero := by
  refine ⟨fun g c => by simp [Bank.reset], fun g => by simp [State.powerOn, Outputs.reset], configWord_eq false,
    configWord_eq true, fun s t h => ⟨fun c => ?_, out_of_execReset h, memRead_config_congr (exec_powerGuard h), ?_⟩,
    rfl⟩
  · rw [bank_of_execReset h c, bank_powerOn]
  · cases h; rfl

/-- Settles O30: the banks and outputs are those of reset, and there is no word in any stream. -/
theorem invariantsHoldAtPowerOn : Obligations.InvariantsHoldAtPowerOn := by
  have no_word (g : Bool) (a : Agent) (w : OpWord) : w ∉ (State.powerOn g).stream a := by simp
  exact fun g => ⟨idleStartsZero_of_reset_banks (by simp), outputsShowSnapshots_of_reset rfl (by simp),
    fun a w hw => absurd hw (no_word g a w), fun a w hw => absurd hw (no_word g a w)⟩

end Sys2Proof.Machine
end

section
/-! The memory family (20_memory.md): the bytes of a transport (R62), what one step performs (R66), and the total order
of the agents' operations (R69, R205). -/

namespace Sys2Proof

/-! ## Decoding an operation's own word (R92) -/

/-- Every operation is what its own word decodes to. -/
@[simp] theorem decode_encode (i : Instr) : decode (encode i) = .ok i := by
  cases i with
  | nop => decide
  | rise c now => simp [decode, encode, withChannel]
  | fall c now => simp [decode, encode, withChannel]
  | consume c => simp [decode, encode, withChannel, withZeroData]
  | read r => simp [decode, encode, withZeroData]
  | reset => decide

/-! ## The bytes of a transport (R62) -/

/-- Byte `k` of a bit vector as a number. -/
theorem toNat_extract_byte {n : Nat} (x : BitVec n) (k : Nat) :
    (x.extractLsb' (8 * k) 8).toNat = x.toNat / 256 ^ k % 256 := by
  rw [toNat_extract, Nat.pow_mul]; rfl

/-- The bytes of a word are those at its positions 0 to 4. -/
theorem wordBytes_getElem? (w : OpWord) {k : Nat} (hk : k < 5) :
    (wordBytes w)[k]? = some (w.extractLsb' (8 * k) 8) := by
  match k, hk with
  | 0, _ | 1, _ | 2, _ | 3, _ | 4, _ => rfl

/-- The bytes of a register value are those at its positions 0 to 3. -/
theorem registerBytes_getElem? (v : Word) {k : Nat} (hk : k < 4) :
    (registerBytes v)[k]? = some (v.extractLsb' (8 * k) 8) := by
  match k, hk with
  | 0, _ | 1, _ | 2, _ | 3, _ => rfl

/-- A word is its five bytes, the last one sent on top. -/
theorem word_eq_bytes (w : OpWord) :
    w.extractLsb' 32 8 ++ w.extractLsb' 24 8 ++ w.extractLsb' 16 8 ++ w.extractLsb' 8 8 ++ w.extractLsb' 0 8 = w := by
  apply BitVec.eq_of_toNat_eq
  simp only [toNat_append_eq, toNat_extract]
  omega

/-- The bytes of a legal word read back as its operation, with what follows left over. -/
theorem decodeBytes_wordBytes {w : OpWord} {i : Instr} (h : decode w = .ok i) (rest : List Byte) :
    decodeBytes (wordBytes w ++ rest) = .ok (i, rest) := by
  simp only [wordBytes, List.cons_append, List.nil_append, decodeBytes, word_eq_bytes, h]

/-- Fewer than five bytes are no word (log 11). -/
theorem decodeBytes_short {l : List Byte} (h : l.length < 5) : decodeBytes l = .error .truncated := by
  match l, h with
  | [], _ | [_], _ | [_, _], _ | [_, _, _], _ | [_, _, _, _], _ => rfl
  | _ :: _ :: _ :: _ :: _ :: _, h => simp only [List.length_cons] at h; omega

/-- Settles O6: each byte is a field of eight bits, and the five of a word put together are the word. -/
theorem transportSendsLeastSignificantByteFirst : Obligations.TransportSendsLeastSignificantByteFirst := by
  refine ⟨fun w k hk => ?_, fun v k hk => ?_, fun i rest => decodeBytes_wordBytes (decode_encode i) rest,
    fun l hl => decodeBytes_short hl⟩
  · rw [wordBytes_getElem? w hk, Option.map_some, toNat_extract_byte]
  · rw [registerBytes_getElem? v hk, Option.map_some, toNat_extract_byte]

/-- A 40-bit number of the opcode table is the word it writes. -/
@[simp] theorem tableWord_toNat (w : OpWord) : tableWord 40 w.toNat = w := by
  rw [tableWord, Nat.mod_eq_of_lt w.isLt, BitVec.ofNat_toNat, BitVec.setWidth_eq]

end Sys2Proof

namespace Sys2Proof.Machine

/-! ## What a step performs (R66) -/

/-- A step on a legal word is its operation, on the state with the word and the turn taken. -/
theorem step_word {s : State} {a : Agent} {rest : List Agent} {w : OpWord} {ws : List OpWord} {i : Instr}
    (hs : s.schedule = a :: rest) (hq : s.stream a = w :: ws) (hd : decode w = .ok i) :
    step s = exec i ((s.setSchedule rest).setStream a ws) := by
  simp only [step, nextOp_word hs hq, runWord_legal hd]

/-- Settles O7: the word fetched is the agent's next, and a presented word is its operation's own. -/
theorem stepPerformsTheDecodedOperation : Obligations.StepPerformsTheDecodedOperation := by
  refine ⟨fun s a rest w ws i => step_word, fun s i => ?_⟩
  rw [step_withFetchWord, tableWord_toNat, runWord_legal (decode_encode i)]

/-! ## What the agents issue in a run (R69) -/

theorem nextIssue_idle {s : State} (h : s.schedule = []) : nextIssue s = none := by simp [nextIssue, h]

theorem nextIssue_silent {s : State} {a : Agent} {rest : List Agent} (h : s.schedule = a :: rest)
    (hq : s.stream a = []) : nextIssue s = none := by simp [nextIssue, h, hq]

/-- What is issued from a step on. -/
theorem issued_succ_next {s t : State} (h : step s = .next t) (n : Nat) :
    issued (n + 1) s = (nextIssue s).toList ++ issued n t := by simp [issued, h]

/-- A run that goes on is a step that goes on and the rest of the run. -/
theorem runSteps_succ_inv {n : Nat} {s t : State} (h : runSteps (n + 1) s = .next t) :
    ∃ u, step s = .next u ∧ runSteps n u = .next t := by
  cases hx : step s with
  | next u => exact ⟨u, rfl, by rwa [runSteps_succ_next hx] at h⟩
  | fault f => exact nomatch f
  | refused q => simp [runSteps_succ_refused hx] at h

/-! ## Each agent's order (R69, R70) -/

theorem wordsOf_append (a : Agent) (l m : List (Agent × OpWord)) :
    wordsOf a (l ++ m) = wordsOf a l ++ wordsOf a m := by simp [wordsOf]

theorem wordsOf_cons (a b : Agent) (w : OpWord) (l : List (Agent × OpWord)) :
    wordsOf a ((b, w) :: l) = if a = b then w :: wordsOf a l else wordsOf a l := by
  by_cases h : a = b
  · simp [wordsOf, h]
  · simp [wordsOf, h, Ne.symm h]

/-- One step takes from the front of a stream just the word it issues. -/
theorem step_takes_issued_word {s t : State} (h : step s = .next t) (a : Agent) :
    wordsOf a (nextIssue s).toList ++ t.stream a = s.stream a := by
  rcases step_cases h with ⟨hs, rfl⟩ | ⟨b, rest, hs, hq, rfl⟩ | ⟨b, rest, w, ws, i, hs, hq, -, hx⟩
  · simp [nextIssue_idle hs, wordsOf]
  · simp [nextIssue_silent hs hq, wordsOf]
  · rw [nextIssue_word hs hq, Option.toList_some, wordsOf_cons, exec_stream hx, stream_setStream]
    by_cases hab : a = b
    · simp [hab, hq, wordsOf]
    · simp [hab, wordsOf]

/-- Settles O12, by induction on the steps: what is issued leaves each stream at its front. -/
theorem agentOrderIsKept : Obligations.AgentOrderIsKept := by
  intro n
  induction n with
  | zero => intro s t h a; cases h; rfl
  | succ n ih =>
    intro s t h a
    obtain ⟨u, hstep, hrun⟩ := runSteps_succ_inv h
    rw [issued_succ_next hstep, wordsOf_append, List.append_assoc, ih u t hrun a, step_takes_issued_word hstep a]

/-! ## The agents' side of a state, which no operation reads or writes (log 1) -/

/-- The same block with other streams and another schedule. -/
def State.withAgents (s : State) (q : Streams) (l : List Agent) : State := { s with streams := q, schedule := l }

section WithAgents
variable (s : State) (q : Streams) (l : List Agent)

@[simp] theorem bank_withAgents (c : Channel) : (s.withAgents q l).bank c = s.bank c := by cases c <;> rfl

theorem setBank_withAgents (c : Channel) (b : Bank) :
    (s.withAgents q l).setBank c b = (s.setBank c b).withAgents q l := by cases c <;> rfl

theorem accept_withAgents (c : Channel) : accept (s.withAgents q l) c = accept s c :=
  accept_congr (bank_withAgents s q l c) rfl

theorem memRead_withAgents (r : Reg) : memRead (s.withAgents q l) r = memRead s r := by
  cases r with
  | width c | start c | status c | snap c => simp only [memRead, bank_withAgents]
  | outPower | outDuty | outRgb | config => rfl

/-- Taking a word and a turn touches the agents' side only. -/
theorem taken_eq_withAgents (rest : List Agent) (a : Agent) (ws : List OpWord) :
    (s.setSchedule rest).setStream a ws = s.withAgents (s.setStream a ws).streams rest := by
  rcases a with (_ | _ | _) | _ | _ <;> rfl

end WithAgents

/-- An operation does the same to the block whatever the agents' side is, and keeps that side. -/
theorem exec_withAgents {i : Instr} {s t : State} (h : exec i s = .next t) (q : Streams) (l : List Agent) :
    exec i (s.withAgents q l) = .next (t.withAgents q l) := by
  rcases exec_cases h with ⟨rfl, rfl | ⟨c, now, rfl, ha⟩ | ⟨c, rfl, hn⟩⟩ | ⟨c, now, rfl, rfl⟩ |
    ⟨c, now, rfl, ha, rfl⟩ | ⟨c, rfl, hn, rfl⟩ | ⟨r, rfl, rfl⟩ | ⟨rfl, rfl⟩
  · exact execNop_eq _
  · exact execFall_rejected (by rw [accept_withAgents, ha]) now
  · exact execConsume_nothing (by rw [bank_withAgents, hn])
  · rw [execRise_eq, setBank_withAgents, bank_withAgents]; rfl
  · rw [execFall_accepted (by rw [accept_withAgents, ha]), setBank_withAgents, bank_withAgents]; rfl
  · rw [execConsume_new (by rw [bank_withAgents, hn]), setBank_withAgents, bank_withAgents]; rfl
  · rw [execRead_eq, memRead_withAgents]; rfl
  · rfl

/-- So do operations performed one after another. -/
theorem execAll_withAgents {is : List Instr} {s t : State} (h : execAll is s = .next t) (q : Streams) (l : List Agent) :
    execAll is (s.withAgents q l) = .next (t.withAgents q l) := by
  induction is generalizing s with
  | nil => cases h; rfl
  | cons i is ih =>
    cases hi : exec i s with
    | next u =>
      rw [execAll_cons_next hi] at h
      rw [execAll_cons_next (exec_withAgents hi q l), ih h]
    | fault f => exact nomatch f
    | refused r => simp [execAll, hi] at h

/-! ## One total order (R69) -/

/-- A step performs the operation of the word it issues, if any, on the block, the agents' side apart. -/
theorem step_performs_issued {s t : State} (h : step s = .next t) :
    ∃ ops : List Instr, (nextIssue s).toList.map (fun p => decode p.2) = ops.map Except.ok ∧
      execAll ops s = .next (t.withAgents s.streams s.schedule) := by
  rcases step_cases h with ⟨hs, rfl⟩ | ⟨a, rest, hs, hq, rfl⟩ | ⟨a, rest, w, ws, i, hs, hq, hd, hx⟩
  · exact ⟨[], by simp [nextIssue_idle hs], rfl⟩
  · exact ⟨[], by simp [nextIssue_silent hs hq], rfl⟩
  · rw [taken_eq_withAgents] at hx
    exact ⟨[i], by simp [nextIssue_word hs hq, hd], execAll_cons_next (exec_withAgents hx s.streams s.schedule) []⟩

/-- Settles O13, by induction on the steps: each step's operation is followed by those of the rest of the run, which do
not read the agents' side that the step changed. -/
theorem runIsATotalOrderOfOperations : Obligations.RunIsATotalOrderOfOperations := by
  intro n
  induction n with
  | zero => intro s t h; cases h; exact ⟨[], s, rfl, rfl, rfl⟩
  | succ n ih =>
    intro s t h
    obtain ⟨v, hstep, hrun⟩ := runSteps_succ_inv h
    obtain ⟨first, hfirst, hexec⟩ := step_performs_issued hstep
    obtain ⟨ops, u, hops, hall, ht⟩ := ih v t hrun
    refine ⟨first ++ ops, u.withAgents s.streams s.schedule, ?_, ?_, ht⟩
    · rw [issued_succ_next hstep, List.map_append, List.map_append, hfirst, hops]
    · rw [execAll_append hexec, execAll_withAgents hall]

/-! ## Every interleaving (R69, R205) -/

/-- Every operation has a next state (R119, R200). -/
theorem exec_completes (i : Instr) (s : State) : ∃ t, exec i s = .next t := by
  cases i with
  | fall c now =>
    cases ha : accept s c with
    | true => exact ⟨_, execFall_accepted ha now⟩
    | false => exact ⟨s, execFall_rejected ha now⟩
  | consume c =>
    cases hn : (s.bank c).new with
    | true => exact ⟨_, execConsume_new hn⟩
    | false => exact ⟨s, execConsume_nothing hn⟩
  | _ => exact ⟨_, rfl⟩

/-- The streams that hold a list of issued words, each agent its own in order. -/
def streamsOf (l : List (Agent × OpWord)) : Streams :=
  ⟨wordsOf (.edge .power) l, wordsOf (.edge .color) l, wordsOf (.edge .bright) l, wordsOf .consumer l, wordsOf .host l⟩

/-- The same block about to issue a list of words, in that order. -/
def State.aboutToIssue (s : State) (l : List (Agent × OpWord)) : State := s.withAgents (streamsOf l) (l.map Prod.fst)

theorem stream_aboutToIssue (s : State) (l : List (Agent × OpWord)) (a : Agent) :
    (s.aboutToIssue l).stream a = wordsOf a l := by rcases a with (_ | _ | _) | _ | _ <;> rfl

/-- Taking the first word and its turn leaves the block about to issue the rest. -/
theorem taken_aboutToIssue_cons (s : State) (a : Agent) (w : OpWord) (l : List (Agent × OpWord)) :
    ((s.aboutToIssue ((a, w) :: l)).setSchedule (l.map Prod.fst)).setStream a (wordsOf a l) = s.aboutToIssue l := by
  rcases a with (_ | _ | _) | _ | _ <;> rfl

/-- The first word of the list is the next one issued, and its operation is performed on the block. -/
theorem step_aboutToIssue_cons {a : Agent} {w : OpWord} {i : Instr} {s t : State} (hd : decode w = .ok i)
    (hx : exec i s = .next t) (l : List (Agent × OpWord)) :
    nextIssue (s.aboutToIssue ((a, w) :: l)) = some (a, w) ∧
      step (s.aboutToIssue ((a, w) :: l)) = .next (t.aboutToIssue l) := by
  have hs : (s.aboutToIssue ((a, w) :: l)).schedule = a :: l.map Prod.fst := rfl
  have hq : (s.aboutToIssue ((a, w) :: l)).stream a = w :: wordsOf a l := by
    rw [stream_aboutToIssue, wordsOf_cons, if_pos rfl]
  refine ⟨nextIssue_word hs hq, ?_⟩
  rw [step_word hs hq hd, taken_aboutToIssue_cons]
  exact exec_withAgents hx _ _

/-- A block about to issue legal words issues just those, in a run that goes on. -/
theorem run_aboutToIssue (l : List (Agent × OpWord)) (s : State) (hl : ∀ p ∈ l, ∃ i : Instr, decode p.2 = .ok i) :
    issued l.length (s.aboutToIssue l) = l ∧ ∃ t, runSteps l.length (s.aboutToIssue l) = .next t := by
  induction l generalizing s with
  | nil => exact ⟨rfl, _, rfl⟩
  | cons p l ih =>
    obtain ⟨a, w⟩ := p
    obtain ⟨i, hd⟩ := hl (a, w) List.mem_cons_self
    obtain ⟨u, hx⟩ := exec_completes i s
    obtain ⟨hn, hstep⟩ := step_aboutToIssue_cons (a := a) hd hx l
    obtain ⟨hissued, t, hrun⟩ := ih u fun p hp => hl p (List.mem_cons_of_mem _ hp)
    refine ⟨?_, t, ?_⟩
    · rw [List.length_cons, issued_succ_next hstep, hn, hissued]; rfl
    · rw [List.length_cons, runSteps_succ_next hstep, hrun]

/-- Settles O14: the streams are each agent's words of the list, the schedule the agents in the list's order. -/
theorem everyInterleavingIsAdmitted : Obligations.EveryInterleavingIsAdmitted :=
  fun l s hl => ⟨streamsOf l, run_aboutToIssue l s hl⟩

end Sys2Proof.Machine
end

section
/-! The encoding family (30_encoding.md), the decoder: what it answers for each opcode (R91), which words it refuses and
why (R90), and the words it answers an operation for (R92). -/

namespace Sys2Proof

/-! ## The decoder, opcode by opcode (R91)

Each check of the decoder is a gate: it refuses the word, or goes on. -/

/-- Case (b) of R91: go on where RSV is 00. -/
def withZeroReserved (w : OpWord) (k : Except IllegalReason Instr) : Except IllegalReason Instr :=
  if rsvField w ≠ 0b00#2 then .error .nonzeroReserved else k

/-- An opcode is one of R90 (a), or one of the six of R82. -/
theorem opcode_cases (op : BitVec 4) :
    0x6#4 ≤ op ∨ op = 0x0#4 ∨ op = 0x1#4 ∨ op = 0x2#4 ∨ op = 0x3#4 ∨ op = 0x4#4 ∨ op = 0x5#4 := by
  revert op; decide

section Opcodes
variable {w : OpWord}

theorem decode_opcode_reserved (h : 0x6#4 ≤ opField w) : decode w = .error .reservedOpcode := if_pos h

theorem decode_opcode_nop (h : opField w = 0x0#4) :
    decode w = withZeroReserved w (withZeroData w (withZeroChannel w (.ok .nop))) := by
  simp [decode, withZeroReserved, h]

theorem decode_opcode_rise (h : opField w = 0x1#4) :
    decode w = withZeroReserved w (withChannel w fun c => .ok (.rise c (dataField w))) := by
  simp [decode, withZeroReserved, h]

theorem decode_opcode_fall (h : opField w = 0x2#4) :
    decode w = withZeroReserved w (withChannel w fun c => .ok (.fall c (dataField w))) := by
  simp [decode, withZeroReserved, h]

theorem decode_opcode_consume (h : opField w = 0x3#4) :
    decode w = withZeroReserved w (withChannel w fun c => withZeroData w (.ok (.consume c))) := by
  simp [decode, withZeroReserved, h]

theorem decode_opcode_read (h : opField w = 0x4#4) :
    decode w = withZeroData w (.ok (.read (Reg.ofIndex (regField w)))) := by
  simp [decode, h]

theorem decode_opcode_reset (h : opField w = 0x5#4) :
    decode w = withZeroReserved w (withZeroData w (withZeroChannel w (.ok .reset))) := by
  simp [decode, withZeroReserved, h]

end Opcodes

/-! ## What passes a gate -/

section Gates
variable {w : OpWord} {i : Instr} {k : Except IllegalReason Instr} {f : Channel → Except IllegalReason Instr}

theorem withZeroReserved_pass (h : rsvField w = 0b00#2) : withZeroReserved w k = k := if_neg (not_not.mpr h)

theorem withZeroData_pass (h : dataField w = 0#32) : withZeroData w k = k := if_neg (not_not.mpr h)

theorem withZeroReserved_ok_iff : withZeroReserved w k = .ok i ↔ rsvField w = 0b00#2 ∧ k = .ok i := by
  by_cases h : rsvField w = 0b00#2 <;> simp [withZeroReserved, h]

theorem withZeroData_ok_iff : withZeroData w k = .ok i ↔ dataField w = 0#32 ∧ k = .ok i := by
  by_cases h : dataField w = 0#32 <;> simp [withZeroData, h]

theorem withZeroChannel_ok_iff : withZeroChannel w k = .ok i ↔ chField w = 0b00#2 ∧ k = .ok i := by
  by_cases h : chField w = 0b00#2 <;> simp [withZeroChannel, h]

theorem withChannel_ok_iff :
    withChannel w f = .ok i ↔ ∃ c, Channel.ofNumber (chField w) = some c ∧ f c = .ok i := by
  cases h : Channel.ofNumber (chField w) <;> simp [withChannel, h]

end Gates

/-! ## A legal word is its operation's word (R92) -/

/-- A word of format Z is its opcode (R81). -/
theorem registerWord_zero_of_fields {w : OpWord} {op : BitVec 4} (hop : opField w = op) (hr : rsvField w = 0b00#2)
    (hd : dataField w = 0#32) (hc : chField w = 0b00#2) : registerWord op 0#4 = w := by
  have hreg : regField w = 0#4 := by rw [regField_eq, hr, hc]; rfl
  rw [← hop, ← hreg, registerWord_of_fields hd]

/-- A word that decodes to an operation is that operation's word. -/
theorem encode_of_decode {w : OpWord} {i : Instr} (h : decode w = .ok i) : encode i = w := by
  rcases opcode_cases (opField w) with hop | hop | hop | hop | hop | hop | hop
  · simp [decode_opcode_reserved hop] at h
  · rw [decode_opcode_nop hop, withZeroReserved_ok_iff, withZeroData_ok_iff, withZeroChannel_ok_iff] at h
    obtain ⟨hr, hd, hc, ⟨⟩⟩ := h
    exact registerWord_zero_of_fields hop hr hd hc
  · rw [decode_opcode_rise hop, withZeroReserved_ok_iff, withChannel_ok_iff] at h
    obtain ⟨hr, c, hc, ⟨⟩⟩ := h
    rw [encode, ← hop, channelWord_of_fields hr hc]
  · rw [decode_opcode_fall hop, withZeroReserved_ok_iff, withChannel_ok_iff] at h
    obtain ⟨hr, c, hc, ⟨⟩⟩ := h
    rw [encode, ← hop, channelWord_of_fields hr hc]
  · rw [decode_opcode_consume hop, withZeroReserved_ok_iff, withChannel_ok_iff] at h
    obtain ⟨hr, c, hc, h⟩ := h
    obtain ⟨hd, ⟨⟩⟩ := withZeroData_ok_iff.mp h
    rw [encode, ← hop, ← hd, channelWord_of_fields hr hc]
  · rw [decode_opcode_read hop, withZeroData_ok_iff] at h
    obtain ⟨hd, ⟨⟩⟩ := h
    rw [encode, ← hop, Reg.index_ofIndex, registerWord_of_fields hd]
  · rw [decode_opcode_reset hop, withZeroReserved_ok_iff, withZeroData_ok_iff, withZeroChannel_ok_iff] at h
    obtain ⟨hr, hd, hc, ⟨⟩⟩ := h
    exact registerWord_zero_of_fields hop hr hd hc

/-- The decoder answers an operation for that operation's word alone. -/
theorem decode_eq_ok_iff {w : OpWord} {i : Instr} : decode w = .ok i ↔ encode i = w :=
  ⟨encode_of_decode, fun h => h ▸ decode_encode i⟩

/-! ## Why a word is refused (R90) -/

/-- The reason of a refusal, none for an operation. -/
def refusalReason : Except IllegalReason Instr → Option IllegalReason
  | .ok _ => none
  | .error r => some r

@[simp] theorem refusalReason_ok (i : Instr) : refusalReason (.ok i) = none := rfl

@[simp] theorem refusalReason_error (r : IllegalReason) : refusalReason (.error r) = some r := rfl

theorem refusalReason_eq_some_iff {x : Except IllegalReason Instr} {r : IllegalReason} :
    refusalReason x = some r ↔ x = .error r := by cases x <;> simp

theorem refusalReason_eq_none_iff {x : Except IllegalReason Instr} :
    refusalReason x = none ↔ ∃ i, x = .ok i := by cases x <;> simp

section Reasons
variable (w : OpWord) (k : Except IllegalReason Instr)

theorem refusalReason_withZeroReserved : refusalReason (withZeroReserved w k) =
    if rsvField w ≠ 0b00#2 then some .nonzeroReserved else refusalReason k := by
  rw [withZeroReserved, apply_ite refusalReason, refusalReason_error]

theorem refusalReason_withZeroData : refusalReason (withZeroData w k) =
    if dataField w ≠ 0#32 then some .nonzeroData else refusalReason k := by
  rw [withZeroData, apply_ite refusalReason, refusalReason_error]

theorem refusalReason_withZeroChannel : refusalReason (withZeroChannel w k) =
    if chField w ≠ 0b00#2 then some .nonzeroReserved else refusalReason k := by
  rw [withZeroChannel, apply_ite refusalReason, refusalReason_error]

/-- A gate on CH whose channels all go on alike refuses CH = 11 first. -/
theorem refusalReason_withChannel {f : Channel → Except IllegalReason Instr} {q : Option IllegalReason}
    (hf : ∀ c, refusalReason (f c) = q) :
    refusalReason (withChannel w f) = if chField w = 0b11#2 then some .noSuchChannel else q := by
  cases h : Channel.ofNumber (chField w) with
  | none =>
    rw [if_pos (Channel.ofNumber_none.mp h), withChannel, h, refusalReason_error]
  | some c =>
    have hne : chField w ≠ 0b11#2 := fun he => by simp [Channel.ofNumber_none.mpr he] at h
    simp [withChannel, h, hf, hne]

/-! The cases of R90 as the decoder's fields show them. -/

theorem illegalOpcode_eq : illegalOpcode w = decide (6 ≤ (opField w).toNat) := rfl

theorem illegalReserved_eq : illegalReserved w =
    ([0x0#4, 0x1#4, 0x2#4, 0x3#4, 0x5#4].contains (opField w) && rsvField w != 0b00#2) := rfl

theorem illegalChannel_eq : illegalChannel w =
    ([0x1#4, 0x2#4, 0x3#4].contains (opField w) && chField w == 0b11#2) := rfl

theorem illegalData_eq : illegalData w =
    ([0x0#4, 0x3#4, 0x4#4, 0x5#4].contains (opField w) && dataField w != 0#32) := rfl

theorem illegalZeroFormat_eq : illegalZeroFormat w =
    ([0x0#4, 0x5#4].contains (opField w) && chField w != 0b00#2) := rfl

/-- The decoder's refusal is R90's: the first case that applies. -/
theorem refusalReason_decode : refusalReason (decode w) = firstIllegal w := by
  rw [firstIllegal, illegalOpcode_eq, illegalReserved_eq, illegalChannel_eq, illegalData_eq, illegalZeroFormat_eq]
  rcases opcode_cases (opField w) with hop | hop | hop | hop | hop | hop | hop
  · have h6 : 6 ≤ (opField w).toNat := hop
    simp [decode_opcode_reserved hop, h6]
  · rw [decode_opcode_nop hop, refusalReason_withZeroReserved, refusalReason_withZeroData,
      refusalReason_withZeroChannel]
    simp [hop]
  · rw [decode_opcode_rise hop, refusalReason_withZeroReserved, refusalReason_withChannel (q := none)]
    · simp [hop]
    · exact fun c => refusalReason_ok _
  · rw [decode_opcode_fall hop, refusalReason_withZeroReserved, refusalReason_withChannel (q := none)]
    · simp [hop]
    · exact fun c => refusalReason_ok _
  · rw [decode_opcode_consume hop, refusalReason_withZeroReserved,
      refusalReason_withChannel (q := if dataField w ≠ 0#32 then some .nonzeroData else none)]
    · simp [hop]
    · exact fun c => refusalReason_withZeroData w _
  · rw [decode_opcode_read hop, refusalReason_withZeroData]
    simp [hop]
  · rw [decode_opcode_reset hop, refusalReason_withZeroReserved, refusalReason_withZeroData,
      refusalReason_withZeroChannel]
    simp [hop]

end Reasons

theorem decode_eq_error_iff {w : OpWord} {r : IllegalReason} : decode w = .error r ↔ firstIllegal w = some r := by
  rw [← refusalReason_decode, refusalReason_eq_some_iff]

theorem firstIllegal_eq_none_iff_decode_ok {w : OpWord} : firstIllegal w = none ↔ ∃ i, decode w = .ok i := by
  rw [← refusalReason_decode, refusalReason_eq_none_iff]

/-- A word has no case of R90 exactly when it is well formed. -/
theorem firstIllegal_eq_none_iff_wellFormed (w : OpWord) : firstIllegal w = none ↔ OpWord.wellFormed w = true := by
  simp only [firstIllegal, OpWord.wellFormed]
  split_ifs <;> simp [*]

/-! ## The statements on words (R87 to R92) -/

/-- Settles O2: an operation's word is written from its operands by `encode`, and the decoder reads each back. -/
theorem decodeOfEncodeIsTheOperation : Obligations.DecodeOfEncodeIsTheOperation := by
  refine ⟨decode_encode, rfl, fun _ _ => rfl, fun _ _ => rfl, fun _ => rfl, fun n => ?_, rfl, rfl, rfl, rfl⟩
  rw [encode, Reg.index_ofIndex, registerWord]

/-- Settles O3: a legal word is its operation's own, so it names no other. -/
theorem legalWordsNameExactlyOneOperation : Obligations.LegalWordsNameExactlyOneOperation := by
  refine ⟨fun w i => decode_eq_ok_iff, fun w => ?_, fun w h => decode_opcode_reserved (BitVec.le_def.mpr h)⟩
  rw [← firstIllegal_eq_none_iff_wellFormed, firstIllegal_eq_none_iff_decode_ok]
  refine ⟨fun ⟨i, hi⟩ => ⟨i, hi, fun j hj => ?_⟩, ExistsUnique.exists⟩
  exact Except.ok.inj (hj.symm.trans hi)

/-- Settles O1: the words the spec writes out are those of the operations it names. -/
theorem specWordsDecode : Obligations.SpecWordsDecode := by
  unfold Obligations.SpecWordsDecode
  decide

end Sys2Proof
end

section
/-! The encoding family, the opcode table (R82): a row fixes the opcode, and with it the fields that its mask covers. -/

namespace Sys2Proof

/-- A word that fits a row has, field by field under the row's mask, the row's pattern. -/
theorem fields_of_fits {row : OpRow} {w : OpWord} (h : row.fits w = true) :
    opField w &&& opField row.mask = opField row.pattern ∧ rsvField w &&& rsvField row.mask = rsvField row.pattern ∧
      chField w &&& chField row.mask = chField row.pattern ∧
      dataField w &&& dataField row.mask = dataField row.pattern := by
  have hw : w &&& row.mask = row.pattern := beq_iff_eq.mp h
  simp only [opField, rsvField, chField, dataField, ← BitVec.extractLsb'_and, hw, and_self]

/-- Every row's mask covers OP. -/
theorem opField_mask {row : OpRow} (h : row ∈ opcodeTable) : opField row.mask = BitVec.allOnes 4 := by
  revert row; decide

/-- A row of the table is known by its opcode. -/
theorem row_eq_of_opField_eq {row row' : OpRow} (h : row ∈ opcodeTable) (h' : row' ∈ opcodeTable)
    (hop : opField row.pattern = opField row'.pattern) : row = row' := by
  have hrows : ∀ r ∈ opcodeTable, ∀ r' ∈ opcodeTable, opField r.pattern = opField r'.pattern → r = r' := by decide
  exact hrows row h row' h' hop

theorem opField_of_fits {row : OpRow} {w : OpWord} (hrow : row ∈ opcodeTable) (h : row.fits w = true) :
    opField w = opField row.pattern := by
  obtain ⟨hop, -⟩ := fields_of_fits h
  rwa [opField_mask hrow, BitVec.and_allOnes] at hop

/-- Two rows that fit one word have its opcode, so they are one row. -/
theorem row_unique {row row' : OpRow} {w : OpWord} (hrow : row ∈ opcodeTable) (hrow' : row' ∈ opcodeTable)
    (h : row.fits w = true) (h' : row'.fits w = true) : row = row' :=
  row_eq_of_opField_eq hrow hrow' ((opField_of_fits hrow h).symm.trans (opField_of_fits hrow' h'))

theorem row_mem_opcodeTable (i : Instr) : i.row ∈ opcodeTable := by
  cases i <;> simp [opcodeTable, Instr.row]

/-- An operation's word fits its row. -/
theorem row_fits_encode (i : Instr) : i.row.fits (encode i) = true := by
  cases i with
  | nop => exact Laws.TableRow.nop
  | rise c now => exact Laws.TableRow.rise c now
  | fall c now => exact Laws.TableRow.fall c now
  | consume c => exact Laws.TableRow.consume c
  | read r => exact Laws.TableRow.read r
  | reset => exact Laws.TableRow.reset

/-! ## What fits a row is legal, unless CH is 11 (R90) -/

theorem withChannel_ok_or_noSuchChannel (w : OpWord) (op : Channel → Instr) :
    (∃ i, withChannel w (fun c => .ok (op c)) = .ok i) ∨
      withChannel w (fun c => .ok (op c)) = .error .noSuchChannel := by
  cases h : Channel.ofNumber (chField w) <;> simp [withChannel, h]

/-- A field that a mask covers is the pattern's. -/
theorem eq_of_and_eq {n : Nat} {x m p : BitVec n} (h : x &&& m = p) (hm : m = BitVec.allOnes n) : x = p := by
  rw [← h, hm, BitVec.and_allOnes]

/-- A row's mask covers every field that R90 wants 0, so the only case left is (c). -/
theorem decode_of_fits {row : OpRow} {w : OpWord} (hrow : row ∈ opcodeTable) (h : row.fits w = true) :
    (∃ i, decode w = .ok i) ∨ decode w = .error .noSuchChannel := by
  have hop := opField_of_fits hrow h
  obtain ⟨-, hrsv, -, hdata⟩ := fields_of_fits h
  simp only [opcodeTable, List.mem_cons, List.not_mem_nil, or_false] at hrow
  rcases hrow with rfl | rfl | rfl | rfl | rfl | rfl
  · exact .inl ⟨.nop, decode_eq_ok_iff.mpr (eq_of_and_eq (beq_iff_eq.mp h) (by decide)).symm⟩
  · have hr : rsvField w = 0b00#2 := eq_of_and_eq hrsv (by decide)
    rw [decode_opcode_rise hop, withZeroReserved_pass hr]
    exact withChannel_ok_or_noSuchChannel w _
  · have hr : rsvField w = 0b00#2 := eq_of_and_eq hrsv (by decide)
    rw [decode_opcode_fall hop, withZeroReserved_pass hr]
    exact withChannel_ok_or_noSuchChannel w _
  · have hr : rsvField w = 0b00#2 := eq_of_and_eq hrsv (by decide)
    have hd : dataField w = 0#32 := eq_of_and_eq hdata (by decide)
    simp only [decode_opcode_consume hop, withZeroReserved_pass hr, withZeroData_pass hd]
    exact withChannel_ok_or_noSuchChannel w _
  · have hd : dataField w = 0#32 := eq_of_and_eq hdata (by decide)
    exact .inl ⟨_, by rw [decode_opcode_read hop, withZeroData_pass hd]⟩
  · exact .inl ⟨.reset, decode_eq_ok_iff.mpr (eq_of_and_eq (beq_iff_eq.mp h) (by decide)).symm⟩

/-- Settles O5: a legal word is its operation's own, which fits that operation's row; a row is known by its opcode. -/
theorem opcodeTableRowsAgreeWithDecode : Obligations.OpcodeTableRowsAgreeWithDecode := by
  refine ⟨fun w i h => ?_, fun w row row' => row_unique, fun w row => decode_of_fits⟩
  have hfits : i.row.fits w = true := encode_of_decode h ▸ row_fits_encode i
  exact ⟨row_mem_opcodeTable i, hfits, fun row hrow hrowfits => row_unique hrow (row_mem_opcodeTable i) hrowfits hfits⟩

end Sys2Proof
end

section
/-! The encoding family, performing operations: an illegal word has no effect (R90), `pass` reports in channel order
(R97), and `pulse` measures its width (R98). -/

namespace Sys2Proof.Machine

/-! ## An illegal word is refused (R90, R201) -/

/-- The next word issued is its agent's first, and the agent is first in the schedule. -/
theorem nextIssue_eq_some {s : State} {a : Agent} {w : OpWord} (h : nextIssue s = some (a, w)) :
    ∃ rest ws, s.schedule = a :: rest ∧ s.stream a = w :: ws := by
  rcases nextOp_cases s with ⟨hs, -⟩ | ⟨b, rest, hs, hq, -⟩ | ⟨b, rest, v, ws, hs, hq, -⟩
  · simp [nextIssue_idle hs] at h
  · simp [nextIssue_silent hs hq] at h
  · rw [nextIssue_word hs hq] at h
    cases h
    exact ⟨rest, ws, hs, hq⟩

/-- A step on an illegal word is refused with the word and its reason (R201). -/
theorem step_illegal {s : State} {a : Agent} {w : OpWord} {r : IllegalReason} (hn : nextIssue s = some (a, w))
    (hd : decode w = .error r) : step s = .refused (.illegalWord w r) := by
  obtain ⟨rest, ws, hs, hq⟩ := nextIssue_eq_some hn
  simp only [step, nextOp_word hs hq, runWord_illegal hd]

/-- Settles O4: the decoder's reason is that of the first case, and a step or a run on the word keeps its refusal. -/
theorem illegalWordIsRefusedForItsFirstCase : Obligations.IllegalWordIsRefusedForItsFirstCase :=
  ⟨firstIllegal_eq_none_iff_wellFormed, fun _ _ => decode_eq_error_iff,
    fun _ _ s hr => runWord_illegal (decode_eq_error_iff.mpr hr) s,
    fun _ _ _ _ n hn hr => runSteps_succ_refused (step_illegal hn (decode_eq_error_iff.mpr hr)) n⟩

/-! ## `pass` and `pulse` (R97, R98) -/

/-- The records that CONSUMEs of some channels will add: of each that has a new value, in their order (R140). -/
def State.pendingReports (s : State) (cs : List Channel) : List Report :=
  (cs.filter fun c => (s.bank c).new).map fun c => ⟨c, (s.bank c).width⟩

theorem pendingReports_append (s : State) (cs ds : List Channel) :
    s.pendingReports (cs ++ ds) = s.pendingReports cs ++ s.pendingReports ds := by
  simp only [State.pendingReports, List.filter_append, List.map_append]

theorem pendingReports_congr {s t : State} {cs : List Channel} (h : ∀ c ∈ cs, t.bank c = s.bank c) :
    t.pendingReports cs = s.pendingReports cs := by
  have hnew : cs.filter (fun c => (t.bank c).new) = cs.filter fun c => (s.bank c).new :=
    List.filter_congr fun c hc => by rw [h c hc]
  rw [State.pendingReports, hnew]
  exact List.map_congr_left fun c hc => by rw [h c (List.mem_of_mem_filter hc)]

/-- A CONSUME reports its channel's new value, if any, clears NEW, and leaves the other banks (R140, R142). -/
theorem exec_consume_spec (c : Channel) (s : State) :
    ∃ t, exec (.consume c) s = .next t ∧ t.reports = s.reports ++ s.pendingReports [c] ∧
      (t.bank c).new = false ∧ ∀ d, d ≠ c → t.bank d = s.bank d := by
  cases hn : (s.bank c).new with
  | true =>
    exact ⟨_, execConsume_new hn, by simp [State.pendingReports, hn], by simp [Bank.consume],
      fun d hd => by simp [hd]⟩
  | false => exact ⟨s, execConsume_nothing hn, by simp [State.pendingReports, hn], hn, fun _ _ => rfl⟩

/-- CONSUMEs of distinct channels, one after another, report in their order those with a new value, and leave none. -/
theorem execAll_consume_reports {cs : List Channel} (hcs : cs.Nodup) (s : State) :
    ∃ t, execAll (cs.map .consume) s = .next t ∧ t.reports = s.reports ++ s.pendingReports cs ∧
      (∀ c ∈ cs, (t.bank c).new = false) ∧ ∀ d, d ∉ cs → t.bank d = s.bank d := by
  induction cs generalizing s with
  | nil => exact ⟨s, rfl, by simp [State.pendingReports], by simp, fun _ _ => rfl⟩
  | cons c cs ih =>
    obtain ⟨hc, hcs⟩ := List.nodup_cons.mp hcs
    obtain ⟨u, hu, hureports, hunew, hukeep⟩ := exec_consume_spec c s
    obtain ⟨t, ht, htreports, htnew, htkeep⟩ := ih hcs u
    have hlater : ∀ d ∈ cs, u.bank d = s.bank d := fun d hd => hukeep d fun h => hc (h ▸ hd)
    refine ⟨t, (execAll_cons_next hu _).trans ht, ?_, List.forall_mem_cons.mpr ⟨?_, htnew⟩, fun d hd => ?_⟩
    · rw [htreports, hureports, pendingReports_congr hlater, List.append_assoc, ← pendingReports_append,
        List.singleton_append]
    · rw [htkeep c hc, hunew]
    · obtain ⟨hdc, hds⟩ := not_or.mp (mt List.mem_cons.mpr hd)
      rw [htkeep d hds, hukeep d hdc]

/-- Settles O38: a pass is the CONSUMEs of all channels, in channel order. -/
theorem passReportsInChannelOrder : Obligations.PassReportsInChannelOrder := by
  intro s
  obtain ⟨t, ht, hreports, hnew, -⟩ := execAll_consume_reports (cs := [.power, .color, .bright]) (by decide) s
  exact ⟨t, ht, hreports, fun c => hnew c (by cases c <;> simp)⟩

/-- Settles O54: the RISE sets START to t0 and MEAS, so the FALL is accepted and measures t0 + w - t0. -/
theorem pulseMeasuresItsWidth : Obligations.PulseMeasuresItsWidth := by
  intro c t0 w s hs
  have ha : accept (s.setBank c ((s.bank c).rise t0)) c = true := by
    rw [accept_eq_true_iff]
    simpa [Bank.rise] using hs
  refine ⟨_, (execAll_cons_next rfl _).trans (execAll_cons_next (execFall_accepted ha (t0 + w)) []), ?_⟩
  simp [Bank.rise]

end Sys2Proof.Machine
end

section
/-! The encoding family, the assembler (R94 to R99): the value that digits write, and the names of operands. -/

namespace Sys2Proof.Machine

/-! ## Numbers (R99) -/

/-- The digit that writes a value has that value. -/
theorem digitValue_digitChar {d : Nat} (h : d < 16) : digitValue d.digitChar = some d := by
  revert d; decide

/-- The value of an upper-case letter, if it is a hex digit, is that of its lower-case form. -/
theorem digitValue_toLower_ofNat {k : Nat} (h0 : 65 ≤ k) (h1 : k ≤ 90) :
    digitValue (Char.ofNat k).toLower = digitValue (Char.ofNat k) := by
  revert h0; revert k; decide

/-- A digit has the same value in either case (log 10). -/
theorem digitValue_toLower (c : Char) : digitValue c.toLower = digitValue c := by
  by_cases hc : c.isUpper
  · have hrange : 65 ≤ c.toNat ∧ c.toNat ≤ 90 := by
      simpa [Char.isUpper, UInt32.le_iff_toNat_le] using hc
    rw [← Char.ofNat_toNat c]
    exact digitValue_toLower_ofNat hrange.1 hrange.2
  · rw [Char.toLower_eq_of_not_isUpper hc]

theorem digitValue_toUpper (c : Char) : digitValue c.toUpper = digitValue c := by
  rw [← digitValue_toLower c.toUpper, Char.toLower_toUpper_eq_toLower, digitValue_toLower]

/-- Digits are read one after another. -/
theorem digitsValue_append (base : Nat) (cs ds : List Char) (n : Nat) :
    digitsValue base n (cs ++ ds) = (digitsValue base n cs).bind fun m => digitsValue base m ds := by
  induction cs generalizing n with
  | nil => rfl
  | cons c cs ih =>
    simp only [List.cons_append, digitsValue]
    split
    · split
      · exact ih _
      · rfl
    · rfl

/-- Replacing each digit by one of the same value keeps the number. -/
theorem digitsValue_map {f : Char → Char} (hf : ∀ c, digitValue (f c) = digitValue c) (base n : Nat)
    (cs : List Char) : digitsValue base n (cs.map f) = digitsValue base n cs := by
  induction cs generalizing n with
  | nil => rfl
  | cons c cs ih => simp only [List.map_cons, digitsValue, hf, ih]

/-- The digits of a number are read at its value. -/
theorem digitsValue_toDigits {base : Nat} (h1 : 1 < base) (h16 : base ≤ 16) (n : Nat) :
    digitsValue base 0 (Nat.toDigits base n) = some n := by
  induction n using Nat.strongRecOn with
  | ind n ih =>
    rcases Nat.lt_or_ge n base with hn | hn
    · rw [Nat.toDigits_of_lt_base hn]
      simp [digitsValue, digitValue_digitChar (show n < 16 by omega), hn]
    · have hmod : n % base < base := Nat.mod_lt n (by omega)
      rw [Nat.toDigits_of_base_le h1 hn, digitsValue_append, ih (n / base) (Nat.div_lt_self (by omega) h1)]
      simp [digitsValue, digitValue_digitChar (show n % base < 16 by omega), hmod, Nat.div_add_mod]

/-- The assembler's answer to a number: the number where it lies below 2^32, else a refusal (R99). -/
theorem numberOf_eq {base n : Nat} {l : List Char} (hl : l ≠ []) (h : digitsValue base 0 l = some n) :
    numberOf base l = if n < 2 ^ 32 then .ok (BitVec.ofNat 32 n) else .error .numberTooLarge := by
  rw [numberOf, if_neg hl, h]

theorem parseNumber_hex (ds : List Char) : parseNumber (String.ofList ('0' :: 'x' :: ds)) = numberOf 16 ds := by
  simp [parseNumber]

/-- Decimal digits are no `0x`. -/
theorem parseNumber_decimal {l : List Char} {n : Nat} (h : digitsValue 10 0 l = some n) :
    parseNumber (String.ofList l) = numberOf 10 l := by
  rw [parseNumber, String.toList_ofList]
  split
  · next ds =>
    have hx : digitValue 'x' = none := by decide
    have h0 : digitValue '0' = some 0 := by decide
    simp [digitsValue, h0, hx] at h
  · rfl

/-- Hex after `0x` whose digits write `n` is `n`, or is refused. -/
theorem parseNumber_hex_eq {ds : List Char} {n : Nat} (h : digitsValue 16 0 ds = some n) (hds : ds ≠ []) :
    parseNumber (String.ofList ('0' :: 'x' :: ds)) =
      if n < 2 ^ 32 then .ok (BitVec.ofNat 32 n) else .error .numberTooLarge := by
  rw [parseNumber_hex, numberOf_eq hds h]

/-- Settles O52: the digits of a number are read at its value, whatever the case of each. -/
theorem assemblerNumbersAreNeverReduced : Obligations.AssemblerNumbersAreNeverReduced := by
  intro n
  have hdec := digitsValue_toDigits (base := 10) (by decide) (by decide) n
  have hhex := digitsValue_toDigits (base := 16) (by decide) (by decide) n
  refine ⟨?_, ?_, ?_, fun ds hlower => ?_⟩
  · rw [parseNumber_decimal hdec, numberOf_eq Nat.toDigits_ne_nil hdec]
  · exact parseNumber_hex_eq ((digitsValue_map digitValue_toUpper 16 0 _).trans hhex) (by simp)
  · exact parseNumber_hex_eq hhex Nat.toDigits_ne_nil
  · rw [← hlower, digitsValue_map digitValue_toLower] at hhex
    exact parseNumber_hex_eq hhex fun hnil =>
      Nat.toDigits_ne_nil (hlower.symm.trans (congrArg (List.map Char.toLower) hnil))

/-! ## Names of operands (R95, R96) -/

/-- In a list without repetition a text is found at the position where it stands. -/
theorem idxOf?_eq_some_iff_getElem? {l : List String} (hl : l.Nodup) {o : String} {k : Nat} :
    l.idxOf? o = some k ↔ l[k]? = some o := by
  rw [List.idxOf?_eq_some_iff, List.getElem?_eq_some_iff]
  refine exists_congr fun hk => ⟨fun h => h.1, fun h => ⟨h, fun j hj hjo => ?_⟩⟩
  exact absurd ((hl.getElem_inj_iff).mp (hjo.trans h.symm)) (by omega)

theorem ofIndex_eq_iff {k : Nat} (hk : k < 16) {r : Reg} : Reg.ofIndex (BitVec.ofNat 4 k) = r ↔ k = r.index.toNat := by
  constructor
  · rintro rfl
    rw [Reg.index_ofIndex, BitVec.toNat_ofNat, Nat.mod_eq_of_lt hk]
  · rintro rfl
    rw [BitVec.ofNat_toNat, BitVec.setWidth_eq, Reg.ofIndex_index]

theorem parseChannel_eq_ok_iff {o : String} {c : Channel} :
    parseChannel o = .ok c ↔ channelNames.lookup o = some c := by
  rw [parseChannel]
  cases channelNames.lookup o <;> simp

/-- In a list of pairs whose first texts are distinct, a text is found with what stands beside it. -/
theorem lookup_eq_some_iff_mem {α : Type} {l : List (String × α)} (hl : (l.map Prod.fst).Nodup) {o : String} {x : α} :
    l.lookup o = some x ↔ (o, x) ∈ l := by
  induction l with
  | nil => simp
  | cons p l ih =>
    obtain ⟨q, y⟩ := p
    obtain ⟨hq, hl⟩ := List.nodup_cons.mp hl
    by_cases ho : o = q
    · subst ho
      have hx : (o, x) ∉ l := fun h => hq (List.mem_map.mpr ⟨(o, x), h, rfl⟩)
      simp [List.lookup_cons_self, hx, eq_comm]
    · simp [List.lookup_cons, beq_false_of_ne ho, ho, ih hl]

/-- No text is both a register's name and a register's number. -/
theorem registerNames_disjoint_registerNumbers {o : String} (h : o ∈ registerNames) : o ∉ registerNumbers := by
  revert o; decide

theorem lt_length_of_idxOf? {l : List String} {o : String} {k : Nat} (h : l.idxOf? o = some k) : k < l.length := by
  obtain ⟨hk, -⟩ := List.idxOf?_eq_some_iff.mp h
  exact hk

theorem parseRegister_eq_ok_iff {o : String} {r : Reg} : parseRegister o = .ok r ↔
    registerNames.idxOf? o = some r.index.toNat ∨ registerNumbers.idxOf? o = some r.index.toNat := by
  rw [parseRegister]
  cases hname : registerNames.idxOf? o with
  | some k =>
    have hmem : o ∈ registerNames := List.isSome_idxOf?.mp (by rw [hname]; rfl)
    rw [List.idxOf?_eq_none_iff.mpr (registerNames_disjoint_registerNumbers hmem)]
    simp [ofIndex_eq_iff (lt_length_of_idxOf? hname)]
  | none =>
    cases hnumber : registerNumbers.idxOf? o with
    | some k => simp [ofIndex_eq_iff (lt_length_of_idxOf? hnumber)]
    | none => simp

/-- Settles O53: an operand is looked up in a list without repetition, and names what its place there says. -/
theorem assemblerNamesFollowTheirPosition : Obligations.AssemblerNamesFollowTheirPosition := by
  refine ⟨fun o => ?_, fun r o => ?_⟩
  · have hkeys : (channelNames.map Prod.fst).Nodup := by decide
    simp only [parseChannel_eq_ok_iff, lookup_eq_some_iff_mem hkeys]
    simp [channelNames]
  · rw [parseRegister_eq_ok_iff, idxOf?_eq_some_iff_getElem? (by decide), idxOf?_eq_some_iff_getElem? (by decide)]

end Sys2Proof.Machine
end

section
/-! The capture family (40_capture.md): what RISE and FALL do to their own bank, what stays through other operations,
and that the edges of distinct channels are isolated. -/

namespace Sys2Proof.Machine

/-! ## Operations performed to their end -/

/-- Operations performed in order always complete (R119, R200). -/
theorem execAll_completes (l : List Instr) (s : State) : ∃ t, execAll l s = .next t := by
  induction l generalizing s with
  | nil => exact ⟨s, rfl⟩
  | cons i is ih =>
    obtain ⟨u, hu⟩ := exec_completes i s
    obtain ⟨t, ht⟩ := ih u
    exact ⟨t, (execAll_cons_next hu is).trans ht⟩

/-- A list of operations completes in a state with every property that each of them keeps. -/
theorem execAll_reaches {P : State → Prop} {Q : Instr → Prop}
    (hstep : ∀ i s t, Q i → P s → exec i s = .next t → P t) {l : List Instr} (hl : ∀ i ∈ l, Q i) {s : State}
    (hs : P s) : ∃ t, execAll l s = .next t ∧ P t := by
  obtain ⟨t, ht⟩ := execAll_completes l s
  exact ⟨t, ht, execAll_induction hstep hl hs ht⟩

/-! ## RISE and FALL (R111 to R114) -/

/-- Writing a channel's bank leaves everything else as it was (R29). -/
theorem setBank_frame (s : State) (c : Channel) (b : Bank) :
    (∀ d, d ≠ c → (s.setBank c b).bank d = s.bank d) ∧ (s.setBank c b).out = s.out ∧
      (s.setBank c b).reports = s.reports ∧ (s.setBank c b).responses = s.responses ∧
      s.sameEnvironment (s.setBank c b) :=
  ⟨fun d hd => by simp [hd], by simp, by simp, by simp, by simp [State.sameEnvironment]⟩

/-- Settles O18: RISE writes START and MEAS of its own bank, in every state. -/
theorem riseStartsAMeasurement : Obligations.RiseStartsAMeasurement :=
  ⟨fun _ _ => rfl, fun c now s => ⟨_, execRise_eq c now s, by simp, by simp, by simp, by simp, by simp,
    setBank_frame s c _⟩⟩

/-- When a channel rejects a FALL (R112). -/
theorem accept_eq_false_iff {s : State} {c : Channel} :
    accept s c = false ↔
      ¬((c = .power ∧ s.powerGuard = false) ∨ ((s.bank c).meas = true ∧ (s.bank c).new = false)) := by
  rw [← accept_eq_true_iff, Bool.not_eq_true]

/-- Settles O19: the two cases are the guard's two answers. -/
theorem fallRecordsTheWidthOrIsRejected : Obligations.FallRecordsTheWidthOrIsRejected := by
  refine ⟨fun _ _ => rfl, fun c now s =>
    ⟨fun ha => ?_, fun ha => execFall_rejected (accept_eq_false_iff.mpr ha) now⟩⟩
  refine ⟨_, execFall_accepted (accept_eq_true_iff.mpr ha) now, ?_, by simp, by simp, by simp, by simp,
    setBank_frame s c _⟩
  rw [bank_setBank, if_pos rfl, BitVec.toNat_sub', Nat.add_sub_assoc (s.bank c).start.isLt.le now.toNat]

/-- Settles O20: an Idle channel is accepted only where it is unguarded, and its START is 0. -/
theorem idleFallOnChannelZero : Obligations.IdleFallOnChannelZero := by
  refine fun now s hidle hmeas => ⟨fun hg => ?_, fun hg => execFall_rejected ?_ now⟩
  · exact ⟨_, execFall_accepted (accept_eq_true_iff.mpr (.inl ⟨rfl, hg⟩)) now, by simp [hidle .power hmeas]⟩
  · simp [accept_eq_false_iff, hg, hmeas]

/-! ## What stays between the edges (R115, R117) -/

theorem exec_keeps_start {i : Instr} {s t : State} {c : Channel} (h : exec i s = .next t)
    (he : i.isEdgeOf c = false) (hr : i ≠ .reset) : (t.bank c).start = (s.bank c).start := by
  obtain ⟨-, hstart, -⟩ := exec_keeps_measurement h he hr
  exact hstart

/-- Settles O21: START stays t0 up to the FALL, which subtracts it. -/
theorem capturedWidthIsExact : Obligations.CapturedWidthIsExact := by
  intro c t0 t1 l s hl
  obtain ⟨u, hu, hstart⟩ := execAll_reaches (P := fun u => (u.bank c).start = t0)
    (fun i v t ⟨he, hr⟩ hv h => by rw [exec_keeps_start h he hr, hv]) hl
    (s := s.setBank c ((s.bank c).rise t0)) (by simp [Bank.rise])
  refine ⟨u, (execAll_cons_next (execRise_eq c t0 s) l).trans hu, fun ha => ⟨_, execFall_accepted ha t1, ?_⟩⟩
  refine ⟨by simp [hstart], by simp, ?_⟩
  rintro w rfl
  simp [hstart]

/-- A Measuring channel and its WIDTH are left alone by all but its FALL and RESET (R117). -/
theorem exec_keeps_measuring {i : Instr} {s t : State} {c : Channel} (h : exec i s = .next t)
    (hf : i.isFallOf c = false) (hr : i ≠ .reset) (hm : (s.bank c).meas = true) :
    (t.bank c).meas = true ∧ (t.bank c).width = (s.bank c).width := by
  rcases exec_bank_cases h c with hb | ⟨now, -, hb⟩ | ⟨now, rfl, -, -⟩ | ⟨-, -, hb⟩ | ⟨hi, -⟩
  · simp [hb, hm]
  · simp [hb, Bank.rise]
  · simp [Instr.isFallOf] at hf
  · simp [hb, Bank.consume, hm]
  · exact absurd hi hr

/-- Settles O24: the RISE sets MEAS, and what follows keeps it. -/
theorem measuringHasNoTimeout : Obligations.MeasuringHasNoTimeout := by
  intro c now l s hl
  obtain ⟨t, ht, hkept⟩ := execAll_reaches (P := fun u => (u.bank c).meas = true ∧ (u.bank c).width = (s.bank c).width)
    (fun i v t ⟨hf, hr⟩ ⟨hm, hw⟩ h => (exec_keeps_measuring h hf hr hm).imp_right (·.trans hw)) hl
    (s := s.setBank c ((s.bank c).rise now)) (by simp [Bank.rise])
  exact ⟨t, (execAll_cons_next (execRise_eq c now s) l).trans ht, hkept⟩

/-! ## Unconsumed widths (R116) -/

/-- A guarded channel with NEW set rejects every FALL (R112). -/
theorem accept_guarded_new {s : State} {c : Channel} (hg : c ≠ .power ∨ s.powerGuard = true)
    (hn : (s.bank c).new = true) : accept s c = false := by
  rw [accept_eq_false_iff]
  rcases hg with hc | hg
  · simp [hc, hn]
  · simp [hg, hn]

/-- On a guarded channel a width not yet consumed is left alone by all but its CONSUME and RESET. -/
theorem exec_keeps_unconsumed {i : Instr} {s t : State} {c : Channel} (h : exec i s = .next t)
    (hc : i ≠ .consume c) (hr : i ≠ .reset) (hg : c ≠ .power ∨ s.powerGuard = true) (hn : (s.bank c).new = true) :
    (t.bank c).width = (s.bank c).width ∧ (t.bank c).new = true := by
  rcases exec_bank_cases h c with hb | ⟨now, -, hb⟩ | ⟨now, -, ha, -⟩ | ⟨hi, -, -⟩ | ⟨hi, -⟩
  · simp [hb, hn]
  · simp [hb, Bank.rise, hn]
  · simp [accept_guarded_new hg hn] at ha
  · exact absurd hi hc
  · exact absurd hi hr

theorem execAll_keeps_unconsumed {l : List Instr} {s t : State} {c : Channel} (h : execAll l s = .next t)
    (hl : ∀ i ∈ l, i ≠ .consume c ∧ i ≠ .reset) (hg : c ≠ .power ∨ s.powerGuard = true)
    (hn : (s.bank c).new = true) : (t.bank c).width = (s.bank c).width ∧ (t.bank c).new = true := by
  refine (execAll_induction (P := fun u => u.powerGuard = s.powerGuard ∧
      (u.bank c).width = (s.bank c).width ∧ (u.bank c).new = true) ?_ hl ⟨rfl, rfl, hn⟩ h).right
  rintro i u v ⟨hc, hr⟩ ⟨hguard, hwidth, hnew⟩ hx
  obtain ⟨hwidth', hnew'⟩ := exec_keeps_unconsumed hx hc hr (by rwa [hguard]) hnew
  exact ⟨(exec_powerGuard hx).trans hguard, hwidth'.trans hwidth, hnew'⟩

/-- Settles O23: the guard rejects while NEW is set; the unguarded channel 0 accepts, and CONSUME snapshots the WIDTH
it finds. -/
theorem unconsumedWidths : Obligations.UnconsumedWidths := by
  refine ⟨fun c now s hg hn => execFall_rejected (accept_guarded_new hg hn) now,
    fun c l s t hg hn hl h => execAll_keeps_unconsumed h hl hg hn, fun now s hg _ => ?_⟩
  refine ⟨_, _, execFall_accepted (accept_eq_true_iff.mpr (.inl ⟨rfl, hg⟩)) now, by simp, by simp,
    execConsume_new (by simp), by simp [Bank.consume]⟩

/-! ## Edges of distinct channels (R118) -/

theorem isEdgeOf_iff {i : Instr} {c : Channel} :
    i.isEdgeOf c = true ↔ (∃ now, i = .rise c now) ∨ ∃ now, i = .fall c now := by
  cases i <;> simp [Instr.isEdgeOf]

theorem isEdgeOf_ne {i : Instr} {c d : Channel} (hi : i.isEdgeOf d = true) (hcd : c ≠ d) : ¬i.isEdgeOf c = true := by
  rcases isEdgeOf_iff.mp hi with ⟨now, rfl⟩ | ⟨now, rfl⟩ <;> simp [Instr.isEdgeOf, hcd.symm]

/-- An edge only writes its channel's bank, the same value in all states that agree on that bank and on POWER_GUARD
(R110). -/
theorem exec_edge {i : Instr} {c : Channel} (hi : i.isEdgeOf c = true) (s : State) :
    ∃ b, ∀ u : State, u.bank c = s.bank c → u.powerGuard = s.powerGuard → exec i u = .next (u.setBank c b) := by
  rcases isEdgeOf_iff.mp hi with ⟨now, rfl⟩ | ⟨now, rfl⟩
  · exact ⟨(s.bank c).rise now, fun u hb _ => by rw [← hb]; rfl⟩
  · cases ha : accept s c with
    | true =>
      refine ⟨(s.bank c).fall now, fun u hb hg => ?_⟩
      rw [execFall_accepted ((accept_congr hb hg).trans ha), ← hb]
      rfl
    | false =>
      refine ⟨s.bank c, fun u hb hg => ?_⟩
      rw [execFall_rejected ((accept_congr hb hg).trans ha), ← hb, setBank_bank]

/-- Edges of distinct channels commute: each writes, in either order, the value it writes alone. -/
theorem execAll_edges_comm {c d : Channel} {i j : Instr} (hcd : c ≠ d) (hi : i.isEdgeOf c = true)
    (hj : j.isEdgeOf d = true) (s : State) : execAll [i, j] s = execAll [j, i] s := by
  obtain ⟨b, hb⟩ := exec_edge hi s
  obtain ⟨b', hb'⟩ := exec_edge hj s
  have hij : execAll [i, j] s = .next ((s.setBank c b).setBank d b') :=
    (execAll_cons_next (hb s rfl rfl) _).trans
      (execAll_cons_next (hb' _ (by simp [hcd.symm]) (by simp)) [])
  have hji : execAll [j, i] s = .next ((s.setBank d b').setBank c b) :=
    (execAll_cons_next (hb' s rfl rfl) _).trans (execAll_cons_next (hb _ (by simp [hcd]) (by simp)) [])
  rw [hij, hji, setBank_comm s hcd]

/-- What edges leave in a bank is what the channel's own edges leave there, from any state that agrees on the bank and
on POWER_GUARD. -/
theorem execAll_edges_bank {c : Channel} {l : List Instr} (hl : ∀ i ∈ l, ∃ d : Channel, i.isEdgeOf d = true)
    {s s' t : State} (hb : s'.bank c = s.bank c) (hg : s'.powerGuard = s.powerGuard) (h : execAll l s = .next t) :
    ∃ u, execAll (l.filter fun i => i.isEdgeOf c) s' = .next u ∧ t.bank c = u.bank c := by
  induction l generalizing s s' with
  | nil => cases h; exact ⟨s', rfl, hb.symm⟩
  | cons i is ih =>
    obtain ⟨⟨d, hd⟩, his⟩ := List.forall_mem_cons.mp hl
    obtain ⟨b, hx⟩ := exec_edge hd s
    rw [execAll_cons_next (hx s rfl rfl)] at h
    by_cases hcd : c = d
    · subst hcd
      rw [List.filter_cons_of_pos hd, execAll_cons_next (hx s' hb hg)]
      exact ih his (by simp) (by simp [hg]) h
    · rw [List.filter_cons_of_neg (isEdgeOf_ne hd hcd)]
      exact ih his (by simp [hcd, hb]) (by simp [hg]) h

/-- Settles O25: an edge reads and writes its own channel's bank only. -/
theorem edgesOnDistinctChannelsAreIsolated : Obligations.EdgesOnDistinctChannelsAreIsolated :=
  ⟨fun _ _ _ _ s hcd hi hj => execAll_edges_comm hcd hi hj s, fun _ _ _ _ hl h => execAll_edges_bank hl rfl rfl h⟩

end Sys2Proof.Machine
end

section
/-! The dispatch family (41_dispatch.md): what CONSUME takes and reports, where each accepted width goes, READ and NOP,
and the text of a record. -/

namespace Sys2Proof.Machine

/-! ## READ and NOP (R147, R148) -/

/-- No register of the map shows READ's answers (R61, log 3). -/
@[simp] theorem memRead_respond (s : State) (r r' : Reg) (v : Word) : memRead (s.respond r v) r' = memRead s r' := by
  cases r' <;> simp [memRead]

/-- Settles O41: READ only records its answer, which no register shows. -/
theorem readAnswersTheRegister : Obligations.ReadAnswersTheRegister := by
  refine ⟨execRead_eq, fun r s => ⟨_, (execAll_cons_next (execRead_eq r s) _).trans
    (execAll_cons_next (execRead_eq r _) []), ?_, fun r' => ?_⟩⟩
  · simp
  · simp

/-- Settles O43: its word is all zeros, and its meaning is the state it finds. -/
theorem nopChangesNothing : Obligations.NopChangesNothing := ⟨by decide, execNop_eq⟩

/-! ## One CONSUME (R140 to R142) -/

theorem reports_of_execConsume {c : Channel} {s t : State} (h : exec (.consume c) s = .next t)
    (hn : (s.bank c).new = true) : t.reports = s.reports ++ [⟨c, (s.bank c).width⟩] := by
  cases (execConsume_new hn).symm.trans h
  simp

/-- Settles O36: the two cases are CONSUME's test of NEW. -/
theorem consumeTakesTheNewWidth : Obligations.ConsumeTakesTheNewWidth := by
  refine ⟨fun _ => rfl, fun c s => ⟨fun hn => ⟨_, execConsume_new hn, ?_⟩, execConsume_nothing⟩⟩
  refine ⟨by simp [Bank.consume], by simp [Bank.consume], by simp [Bank.consume], by simp [Bank.consume],
    by simp [Bank.consume], fun d hd => ⟨by simp [hd], by simp [boundTo_convert_ne hd]⟩, ?_, ?_, ?_, by simp, by simp,
    by simp [State.sameEnvironment]⟩
  · rintro rfl; rfl
  · rintro rfl; rfl
  · rintro rfl; rfl

/-! ## A second CONSUME (R144) -/

/-- While no FALL of the channel is accepted, NEW stays clear. -/
theorem execAll_keeps_new_clear {c : Channel} {l : List Instr} {s t : State} (h : execAll l s = .next t)
    (hl : noAcceptedFall c l s) (hn : (s.bank c).new = false) : (t.bank c).new = false := by
  induction l generalizing s with
  | nil => cases h; exact hn
  | cons i is ih =>
    obtain ⟨hfall, hrest⟩ := hl
    obtain ⟨u, hu⟩ := exec_completes i s
    rw [execAll_cons_next hu] at h
    refine ih h (hrest u hu) (Bool.eq_false_iff.mpr fun hset => ?_)
    obtain ⟨hi, ha⟩ := exec_sets_new hu hn hset
    simp [hfall hi] at ha

/-- Settles O37: the first CONSUME clears NEW, and what runs between keeps it clear. -/
theorem secondConsumeChangesNothing : Obligations.SecondConsumeChangesNothing := by
  intro c l s s' t hfirst hl _ h
  obtain ⟨u, hu, -, hnew, -⟩ := exec_consume_spec c s
  cases hfirst.symm.trans hu
  exact execConsume_nothing (execAll_keeps_new_clear h hl hnew)

/-! ## Where a width goes (R149): the reported values, the width that waits, the widths accepted -/

theorem reportsOf_congr {s t : State} (h : t.reports = s.reports) (c : Channel) : t.reportsOf c = s.reportsOf c := by
  rw [State.reportsOf, h, State.reportsOf]

theorem reportsOf_append {s t : State} {d : Channel} {v : Word} (h : t.reports = s.reports ++ [⟨d, v⟩]) (c : Channel) :
    t.reportsOf c = s.reportsOf c ++ if d = c then [v] else [] := by
  by_cases hd : d = c <;> simp [State.reportsOf, h, hd]

theorem pending_congr {s t : State} {c : Channel} (h : t.bank c = s.bank c) : t.pending c = s.pending c := by
  rw [State.pending, h, State.pending]

theorem pending_of_new {s : State} {c : Channel} (h : (s.bank c).new = true) : s.pending c = [(s.bank c).width] :=
  if_pos h

theorem pending_of_not_new {s : State} {c : Channel} (h : (s.bank c).new = false) : s.pending c = [] := by
  simp [State.pending, h]

/-- The first operation's accepted width comes first. -/
theorem acceptedWidths_cons {i : Instr} {s t : State} (h : exec i s = .next t) (c : Channel) (is : List Instr) :
    acceptedWidths c (i :: is) s = acceptedWidths c [i] s ++ acceptedWidths c is t := by
  simp [acceptedWidths, h]

theorem acceptedWidths_fall {c : Channel} {s t : State} {now : Word} (h : exec (.fall c now) s = .next t)
    (ha : accept s c = true) : acceptedWidths c [.fall c now] s = [(t.bank c).width] := by
  simp [acceptedWidths, h, Instr.isFallOf, ha]

theorem acceptedWidths_none {c : Channel} {i : Instr} (hi : i.isFallOf c = true → accept s c = false) :
    acceptedWidths c [i] s = [] := by
  obtain ⟨t, ht⟩ := exec_completes i s
  simpa [acceptedWidths, ht] using hi

/-- Everything one operation can do to a channel's widths: keep the reported and the waiting one; accept a FALL, whose
width then waits; report the waiting one; drop it, at RESET. -/
theorem exec_width_cases {i : Instr} {s t : State} (h : exec i s = .next t) (c : Channel) :
    (t.reportsOf c = s.reportsOf c ∧ t.pending c = s.pending c ∧ acceptedWidths c [i] s = []) ∨
    (accept s c = true ∧ t.reportsOf c = s.reportsOf c ∧ t.pending c = acceptedWidths c [i] s) ∨
    (t.reportsOf c = s.reportsOf c ++ s.pending c ∧ t.pending c = [] ∧ acceptedWidths c [i] s = []) ∨
    (i = .reset ∧ t.reportsOf c = s.reportsOf c ∧ t.pending c = [] ∧ acceptedWidths c [i] s = []) := by
  rcases exec_cases h with ⟨rfl, hi⟩ | ⟨d, now, rfl, rfl⟩ | ⟨d, now, rfl, ha, rfl⟩ | ⟨d, rfl, hn, rfl⟩ |
    ⟨r, rfl, rfl⟩ | ⟨rfl, ht⟩
  · refine .inl ⟨rfl, rfl, acceptedWidths_none fun hf => ?_⟩
    rcases hi with rfl | ⟨d, now, rfl, ha⟩ | ⟨d, rfl, -⟩
    · simp [Instr.isFallOf] at hf
    · rwa [← of_decide_eq_true hf]
    · simp [Instr.isFallOf] at hf
  · refine .inl ⟨reportsOf_congr (by simp) c, ?_, acceptedWidths_none (by simp [Instr.isFallOf])⟩
    by_cases hc : c = d
    · subst hc; simp [State.pending, Bank.rise]
    · exact pending_congr (by simp [hc])
  · by_cases hc : c = d
    · subst hc
      refine .inr (.inl ⟨ha, reportsOf_congr (by simp) c, ?_⟩)
      rw [acceptedWidths_fall h ha, pending_of_new (by simp [Bank.fall])]
    · exact .inl ⟨reportsOf_congr (by simp) c, pending_congr (by simp [hc]),
        acceptedWidths_none (by simp [Instr.isFallOf, Ne.symm hc])⟩
  · have hnone : acceptedWidths c [.consume d] s = [] := acceptedWidths_none (by simp [Instr.isFallOf])
    have hrep := reportsOf_append (reports_of_execConsume h hn) c
    by_cases hc : c = d
    · subst hc
      refine .inr (.inr (.inl ⟨?_, pending_of_not_new (by simp [Bank.consume]), hnone⟩))
      rw [hrep, if_pos rfl, pending_of_new hn]
    · refine .inl ⟨?_, pending_congr (by simp [hc]), hnone⟩
      rw [hrep, if_neg (Ne.symm hc), List.append_nil]
  · exact .inl ⟨reportsOf_congr rfl c, pending_congr (by simp), acceptedWidths_none (by simp [Instr.isFallOf])⟩
  · refine .inr (.inr (.inr ⟨rfl, reportsOf_congr (by rw [ht]) c, ?_, acceptedWidths_none (by simp [Instr.isFallOf])⟩))
    exact pending_of_not_new (by rw [bank_of_execReset h, Bank.reset])

/-- An accepted FALL of a guarded channel finds no width waiting (R112, R116). -/
theorem pending_of_accept_guarded {s : State} {c : Channel} (hg : c ≠ .power ∨ s.powerGuard = true)
    (ha : accept s c = true) : s.pending c = [] :=
  pending_of_not_new (Bool.eq_false_iff.mpr fun hn => by simp [accept_guarded_new hg hn] at ha)

/-- On a guarded channel an operation but RESET loses no width and repeats none. -/
theorem exec_conserves_widths {i : Instr} {s t : State} {c : Channel} (h : exec i s = .next t) (hr : i ≠ .reset)
    (hg : c ≠ .power ∨ s.powerGuard = true) :
    t.reportsOf c ++ t.pending c = s.reportsOf c ++ s.pending c ++ acceptedWidths c [i] s := by
  rcases exec_width_cases h c with ⟨hrep, hpen, hacc⟩ | ⟨ha, hrep, hpen⟩ | ⟨hrep, hpen, hacc⟩ | ⟨hi, -⟩
  · simp [hrep, hpen, hacc]
  · simp [hrep, hpen, pending_of_accept_guarded hg ha]
  · simp [hrep, hpen, hacc]
  · exact absurd hi hr

/-- Settles O39: by induction on the operations, each of which conserves the channel's widths. -/
theorem acceptedWidthsAreConsumedExactlyOnce : Obligations.AcceptedWidthsAreConsumedExactlyOnce := by
  intro c l s t hg hl h
  induction l generalizing s with
  | nil => cases h; simp [acceptedWidths]
  | cons i is ih =>
    obtain ⟨hi, his⟩ := List.forall_mem_cons.mp hl
    obtain ⟨u, hu⟩ := exec_completes i s
    rw [execAll_cons_next hu] at h
    have hgu : c ≠ .power ∨ u.powerGuard = true := by rwa [exec_powerGuard hu]
    calc t.reportsOf c ++ t.pending c
        = u.reportsOf c ++ u.pending c ++ acceptedWidths c is u := ih u hgu his h
      _ = s.reportsOf c ++ s.pending c ++ acceptedWidths c [i] s ++ acceptedWidths c is u := by
          rw [exec_conserves_widths hu hi hg]
      _ = s.reportsOf c ++ s.pending c ++ acceptedWidths c (i :: is) s := by
          rw [acceptedWidths_cons hu c is, List.append_assoc]

/-- What one operation reports, with what waits after it, was waiting before it or is what it accepted. -/
theorem exec_reports_sublist {i : Instr} {s t : State} (h : exec i s = .next t) (c : Channel) :
    ∃ new, t.reportsOf c = s.reportsOf c ++ new ∧
      List.Sublist (new ++ t.pending c) (s.pending c ++ acceptedWidths c [i] s) := by
  rcases exec_width_cases h c with ⟨hrep, hpen, hacc⟩ | ⟨-, hrep, hpen⟩ | ⟨hrep, hpen, hacc⟩ | ⟨-, hrep, hpen, hacc⟩
  · exact ⟨[], by simp [hrep], by simp [hpen, hacc]⟩
  · exact ⟨[], by simp [hrep], by simp [hpen]⟩
  · exact ⟨s.pending c, hrep, by simp [hpen, hacc]⟩
  · exact ⟨[], by simp [hrep], by simp [hpen]⟩

/-- Settles O40: by induction on the operations; what waits between two of them is the second one's to report. -/
theorem reportsAreAcceptedWidths : Obligations.ReportsAreAcceptedWidths := by
  intro c l s t h
  induction l generalizing s with
  | nil => cases h; exact ⟨[], by simp, by simp [acceptedWidths]⟩
  | cons i is ih =>
    obtain ⟨u, hu⟩ := exec_completes i s
    rw [execAll_cons_next hu] at h
    obtain ⟨new, hnew, hsub⟩ := exec_reports_sublist hu c
    obtain ⟨later, hlater, hlatersub⟩ := ih u h
    refine ⟨new ++ later, by rw [hlater, hnew, List.append_assoc], ?_⟩
    rw [acceptedWidths_cons hu c is, List.append_assoc, ← List.append_assoc (s.pending c)]
    calc List.Sublist (new ++ (later ++ t.pending c)) (new ++ (u.pending c ++ acceptedWidths c is u)) :=
          hlatersub.append_left new
      _ = (new ++ u.pending c) ++ acceptedWidths c is u := (List.append_assoc ..).symm
      List.Sublist _ ((s.pending c ++ acceptedWidths c [i] s) ++ acceptedWidths c is u) := hsub.append_right _

/-! ## The text of a record (R146) -/

/-- The digits of a positive number do not begin with 0. -/
theorem head?_toDigits_ne_zero {base n : Nat} (hb : 1 < base) (hn : 0 < n) :
    (Nat.toDigits base n).head? ≠ some '0' := by
  induction n using Nat.strongRecOn with
  | ind n ih =>
    rcases Nat.lt_or_ge n base with hlt | hge
    · simpa [Nat.toDigits_of_lt_base hlt] using hn.ne'
    · have hpos : 0 < n / base := Nat.div_pos hge (by omega)
      rw [Nat.toDigits_of_base_le hb hge, List.head?_append_of_ne_nil _ Nat.toDigits_ne_nil]
      exact ih (n / base) (Nat.div_lt_self hn hb) hpos

/-- Settles O51: the digits are those of the value, which read back (`digitsValue_toDigits`); only 0 begins with 0. -/
theorem reportLineShowsTheValue : Obligations.ReportLineShowsTheValue := by
  refine ⟨rfl, rfl, rfl, fun _ _ _ => rfl, fun v => ?_, fun v => ⟨?_, fun hhead => ?_⟩⟩
  · rw [decimal, String.toList_ofList, digitsValue_toDigits (by decide) (by decide)]
  · rw [decimal, String.toList_ofList]
    exact Nat.toDigits_ne_nil
  · rw [decimal, String.toList_ofList] at hhead
    have hzero : v.toNat = 0 := Nat.eq_zero_of_not_pos fun hv => head?_toDigits_ne_zero (by decide) hv hhead
    rw [decimal, hzero]
    rfl

end Sys2Proof.Machine
end

section
/-! The converter family (42_converters.md): the saturation and the linear map by their bounds, the bands of input that
give each value, and the segments of the hue wheel. -/

namespace Sys2Proof.Machine

/-! ## Saturation (R172) -/

theorem clamp_of_range {v : Int} (h0 : 0 ≤ v) (h1 : v ≤ 255) : clamp v 0 255 = v := by
  rw [← clamp8_toNat, clamp8_toNat_of_range h0 h1]

theorem clamp_mono {u v : Int} (h : u ≤ v) (lo hi : Int) : clamp u lo hi ≤ clamp v lo hi :=
  min_le_min_right hi (max_le_max_right lo h)

/-- A positive bound up to 255 holds of a value exactly where it holds of the saturated value. -/
theorem le_clamp_iff {k : Int} (h0 : 0 < k) (h1 : k ≤ 255) (v : Int) : k ≤ clamp v 0 255 ↔ k ≤ v := by
  simp only [clamp, le_min_iff, le_max_iff]
  omega

/-- Truncation to 8 bits is the saturation where the value is in range (R179). -/
theorem ofInt_eq_clamp8 {v : Int} (h0 : 0 ≤ v) (h1 : v ≤ 255) : BitVec.ofInt 8 v = clamp8 v :=
  congrArg (BitVec.ofInt 8) (clamp_of_range h0 h1).symm

theorem clamp8_clamp (v : Int) : clamp8 (clamp v 0 255) = clamp8 v :=
  (ofInt_eq_clamp8 (clamp_range v).1 (clamp_range v).2).symm

theorem clamp8_of_nonpos {v : Int} (h : v ≤ 0) : clamp8 v = 0#8 :=
  congrArg (BitVec.ofInt 8) (by simp only [clamp, Config.outMax]; omega : clamp v 0 Config.outMax = 0)

/-! ## The linear map (R171) -/

/-- `lin` reaches k exactly where the scaled input reaches k thousand: the floor of R171. -/
theorem le_lin_iff (k w : Int) : k ≤ lin w ↔ 1000 * k ≤ (w - 1000) * 255 := by
  rw [lin_eq, Int.le_ediv_iff_mul_le (by decide), Int.mul_comm]

theorem lin_mono {v w : Int} (h : v ≤ w) : lin v ≤ lin w := by
  have hv := (le_lin_iff (lin v) v).mp (Int.le_refl _)
  rw [le_lin_iff]
  omega

/-- A step of a microsecond raises the scaled input by 255, less than the thousand of a step of `lin` (R183). -/
theorem lin_succ (w : Int) : lin (w + 1) = lin w ∨ lin (w + 1) = lin w + 1 := by
  rw [lin_eq, lin_eq]
  omega

/-! ## The duty and the hue (R174, R175) -/

theorem hue_eq_brightnessDriver (w : Int) : hue w = brightnessDriver w := rfl

/-- The duty reaches k exactly where the scaled input does. -/
theorem le_brightnessDriver_iff {k : Nat} (h0 : 0 < k) (h1 : k ≤ 255) (w : Int) :
    k ≤ (brightnessDriver w).toNat ↔ 1000 * (k : Int) ≤ (w - 1000) * 255 := by
  rw [← Int.ofNat_le, brightnessDriver_toNat, le_clamp_iff (by omega) (by omega), le_lin_iff]

theorem brightnessDriver_eq_zero_iff (w : Int) : brightnessDriver w = 0#8 ↔ w ≤ 1003 := by
  have h1 := le_brightnessDriver_iff (k := 1) (by decide) (by decide) w
  rw [← BitVec.toNat_inj, show (0#8).toNat = 0 from rfl]
  omega

theorem brightnessDriver_eq_max_iff (w : Int) : brightnessDriver w = 255#8 ↔ 2000 ≤ w := by
  have hmax := le_brightnessDriver_iff (k := 255) (by decide) (by decide) w
  have hlt := (brightnessDriver w).isLt
  rw [← BitVec.toNat_inj, show (255#8).toNat = 255 from rfl]
  omega

/-- The band of inputs of a duty strictly between 0 and 255. -/
theorem brightnessDriver_eq_iff {k : Nat} (h0 : 0 < k) (h1 : k < 255) (w : Int) :
    brightnessDriver w = BitVec.ofNat 8 k ↔
      1000 * (k : Int) ≤ (w - 1000) * 255 ∧ (w - 1000) * 255 < 1000 * ((k : Int) + 1) := by
  have hk := le_brightnessDriver_iff h0 h1.le w
  have hsucc := le_brightnessDriver_iff (Nat.succ_pos k) h1 w
  rw [← BitVec.toNat_inj, BitVec.toNat_ofNat, Nat.mod_eq_of_lt (by omega)]
  omega

theorem brightnessDriver_mono {v w : Int} (h : v ≤ w) : (brightnessDriver v).toNat ≤ (brightnessDriver w).toNat := by
  rw [← Int.ofNat_le, brightnessDriver_toNat, brightnessDriver_toNat]
  exact clamp_mono (lin_mono h) 0 255

/-! ## PowerSwitch (R173) -/

theorem powerSwitch_eq_false_iff (w : Int) : powerSwitch w = false ↔ w < 1500 := by
  rw [Bool.eq_false_iff, ne_eq, powerSwitch_iff, Int.not_le]

theorem powerSwitch_mono {v w : Int} (h : v ≤ w) (hv : powerSwitch v = true) : powerSwitch w = true :=
  (powerSwitch_iff w).mpr (((powerSwitch_iff v).mp hv).trans h)

/-! ## The hue wheel (R176) -/

/-- A unit step of hue moves each component by 0 or 3: within a segment by its slope, across a boundary by the last
step of the segment that ends there (R183). -/
theorem rgbExact_succ (h : Int) :
    (rgbExact (h + 1)).1 - (rgbExact h).1 ∈ [-3, 0, 3] ∧ (rgbExact (h + 1)).2.1 - (rgbExact h).2.1 ∈ [-3, 0, 3] ∧
      (rgbExact (h + 1)).2.2 - (rgbExact h).2.2 ∈ [-3, 0, 3] := by
  simp only [List.mem_cons, List.not_mem_nil, or_false]
  rcases Int.lt_or_le h 84 with h1 | h1
  · simp only [rgbExact_first (by omega : h + 1 < 85), rgbExact_first (by omega : h < 85)]
    omega
  rcases Int.lt_or_le h 169 with h2 | h2
  · simp only [rgbExact_second (by omega : 85 ≤ h + 1) (by omega)]
    rcases Int.lt_or_le h 85 with h3 | h3
    · simp only [rgbExact_first h3]
      omega
    · simp only [rgbExact_second h3 (by omega)]
      omega
  · simp only [rgbExact_third (by omega : 170 ≤ h + 1)]
    rcases Int.lt_or_le h 170 with h3 | h3
    · simp only [rgbExact_second (by omega) h3]
      omega
    · simp only [rgbExact_third h3]
      omega

/-! ## The statements of the family -/

/-- Settles O44, from the threshold of R173 read as two equivalences. -/
theorem powerSwitchThreshold : Obligations.PowerSwitchThreshold :=
  fun w => ⟨(powerSwitch_eq_false_iff w).mpr, (powerSwitch_iff w).mpr⟩

/-- Settles O45: between the ends the saturation changes nothing, so the duty is the floor of R171. -/
theorem brightnessIsTheSaturatedFloor : Obligations.BrightnessIsTheSaturatedFloor := by
  intro w
  refine ⟨(brightnessDriver_eq_zero_iff w).mpr, (brightnessDriver_eq_max_iff w).mpr, fun h0 h1 => ?_,
    hue_eq_brightnessDriver w⟩
  have hlow : 0 ≤ lin w := (le_lin_iff 0 w).mpr (by omega)
  have hhigh : lin w ≤ 255 := lin_mono h1
  rw [brightnessDriver_toNat, clamp_of_range hlow hhigh]
  have hnext := le_lin_iff (lin w + 1) w
  exact ⟨(le_lin_iff (lin w) w).mp (Int.le_refl _), by omega⟩

/-- Settles O46: each band of the table is the pair of bounds on the scaled input at its ends. -/
theorem converterInputBands : Obligations.ConverterInputBands := by
  refine ⟨fun w k _ _ => ?_, fun w => ?_⟩
  · rw [le_lin_iff]
    omega
  have hseg2 := le_brightnessDriver_iff (k := 85) (by decide) (by decide) w
  have hseg3 := le_brightnessDriver_iff (k := 170) (by decide) (by decide) w
  rw [powerSwitch_eq_false_iff, powerSwitch_iff, brightnessDriver_eq_zero_iff, brightnessDriver_eq_max_iff,
    brightnessDriver_eq_iff (k := 1) (by decide) (by decide), brightnessDriver_eq_iff (k := 127) (by decide) (by decide),
    brightnessDriver_eq_iff (k := 128) (by decide) (by decide),
    brightnessDriver_eq_iff (k := 254) (by decide) (by decide), hue_eq_brightnessDriver]
  refine ⟨?_, ?_, ?_, ?_, ?_, ?_, ?_, ?_, rfl, ?_, ?_, ?_⟩ <;> omega

/-- Settles O47: the components are the exact ones of R176, which one segment's formulas give. -/
theorem colorMixerSegments : Obligations.ColorMixerSegments := by
  intro w
  obtain ⟨hr, hg, hb⟩ := rgbOfHue_toNat (hue w)
  have hlt := (hue w).isLt
  rw [colorMixer]
  rcases Nat.lt_or_ge (hue w).toNat 85 with h1 | h1
  · have hseg := rgbExact_first (h := (hue w).toNat) (by omega)
    simp only [hseg] at hr hg hb
    omega
  rcases Nat.lt_or_ge (hue w).toNat 170 with h2 | h2
  · have hseg := rgbExact_second (h := (hue w).toNat) (by omega) (by omega)
    simp only [hseg] at hr hg hb
    omega
  · have hseg := rgbExact_third (h := (hue w).toNat) (by omega)
    simp only [hseg] at hr hg hb
    omega

/-- Settles O48, from the ranges of R176's components and of the clamp. -/
theorem outputStageChangesNothing : Obligations.OutputStageChangesNothing := by
  refine ⟨fun h h0 h1 v hv => ?_, fun w => ?_⟩
  · obtain ⟨hr, hg, hb⟩ := rgbExact_range h0 h1
    have hrange : 0 ≤ v ∧ v ≤ 255 := by
      simp only [List.mem_cons, List.not_mem_nil, or_false] at hv
      rcases hv with rfl | rfl | rfl
      · exact hr
      · exact hg
      · exact hb
    obtain ⟨hv0, hv1⟩ := hrange
    exact ⟨hv0, hv1, clamp8_toNat_of_range hv0 hv1, ofInt_eq_clamp8 hv0 hv1⟩
  · obtain ⟨hw0, hw1⟩ := clamp_range (lin w)
    exact ⟨hw0, hw1, brightnessDriver_toNat w, hue_toNat w, clamp8_clamp _, rfl⟩

/-- Settles O49: the maps are monotone through `lin`, and the wheel's steps are those of `rgbExact_succ`. -/
theorem convertersAreMonotoneAndContinuous : Obligations.ConvertersAreMonotoneAndContinuous :=
  ⟨fun _ _ h => ⟨lin_mono h, brightnessDriver_mono h, brightnessDriver_mono h, powerSwitch_mono h⟩, lin_succ,
    fun h _ _ => rgbExact_succ h, rfl, rfl, rfl, rfl, rfl⟩

/-- Rounded toward zero or down, the scaled input saturates to the same value: the two differ only below 0 (R181). -/
theorem clamp8_tdiv_eq_brightnessDriver (w : Int) :
    clamp8 (Int.tdiv ((w - 1000) * 255) 1000) = brightnessDriver w := by
  rw [brightnessDriver, lin_eq]
  rcases Int.le_total 0 ((w - 1000) * 255) with h | h
  · rw [Int.tdiv_eq_ediv_of_nonneg h]
  · have htrunc : 0 ≤ -Int.tdiv ((w - 1000) * 255) 1000 :=
      Int.neg_tdiv .. ▸ Int.tdiv_nonneg (Int.neg_nonneg.mpr h) (by decide)
    rw [clamp8_of_nonpos (Int.neg_nonneg.mp htrunc), clamp8_of_nonpos (by omega)]

/-- Settles O50: the hue is the same function as the duty (R175). -/
theorem floorAndTruncationAgree : Obligations.FloorAndTruncationAgree :=
  fun w => ⟨clamp8_tdiv_eq_brightnessDriver w, clamp8_tdiv_eq_brightnessDriver w⟩

end Sys2Proof.Machine
end

section
/-! The exceptions family (60_exceptions.md), how a run can end: every operation completes (R200), so only an illegal
word ends a run, for good (R201), and agents with legal words run for ever. -/

namespace Sys2Proof.Machine

/-! ## Only an illegal word ends a run (R200, R201) -/

/-- Settles O10: the meanings of FALL and CONSUME choose between two next states, the others have one. -/
theorem everyOperationCompletes : Obligations.EveryOperationCompletes := exec_completes

/-- A refused step has met an illegal word: with none to issue a step goes on, and a legal word's operation completes. -/
theorem step_refused_inv {s : State} {q : Refusal} (h : step s = .refused q) :
    ∃ a w r, nextIssue s = some (a, w) ∧ decode w = .error r ∧ q = .illegalWord w r := by
  rcases nextOp_cases s with ⟨-, hn⟩ | ⟨a, rest, -, -, hn⟩ | ⟨a, rest, w, ws, hs, hq, -⟩
  · simp [step, hn] at h
  · simp [step, hn] at h
  · cases hd : decode w with
    | error r =>
      have hi := nextIssue_word hs hq
      rw [step_illegal hi hd] at h
      cases h
      exact ⟨a, w, r, hi, hd, rfl⟩
    | ok i =>
      obtain ⟨t, ht⟩ := exec_completes i ((s.setSchedule rest).setStream a ws)
      simp [step_word hs hq hd, ht] at h

/-- Settles O8: a refusal is that of the illegal word it met, and a run begins with that step. -/
theorem onlyIllegalWordsEndARun : Obligations.OnlyIllegalWordsEndARun := by
  refine ⟨fun s q => ⟨step_refused_inv, ?_⟩, fun s q => runSteps_succ_refused⟩
  rintro ⟨a, w, r, hn, hd, rfl⟩
  exact step_illegal hn hd

/-! ## Legal streams (R201, R216) -/

/-- With legal words in the streams a step goes on: the word it issues is one of them. -/
theorem step_completes_of_legalStreams {s : State} (hs : s.legalStreams) : ∃ t, step s = .next t := by
  cases hx : step s with
  | next t => exact ⟨t, rfl⟩
  | fault f => exact nomatch f
  | refused q =>
    obtain ⟨a, w, r, hn, hd, -⟩ := step_refused_inv hx
    obtain ⟨rest, ws, -, hq⟩ := nextIssue_eq_some hn
    obtain ⟨i, hi⟩ := hs a w (by simp [hq])
    simp [hi] at hd

/-- A step only takes words out of the streams, so legal ones stay legal. -/
theorem step_keeps_legalStreams {s t : State} (hs : s.legalStreams) (h : step s = .next t) : t.legalStreams :=
  fun a w hw => hs a w (step_stream_subset h hw)

/-- Runs of every length go on, by induction on the steps. -/
theorem safe_of_legalStreams {s : State} (hs : s.legalStreams) : Safe s := by
  intro n
  induction n generalizing s with
  | zero => exact ⟨s, rfl⟩
  | succ n ih =>
    obtain ⟨u, hu⟩ := step_completes_of_legalStreams hs
    obtain ⟨t, ht⟩ := ih (step_keeps_legalStreams hs hu)
    exact ⟨t, (runSteps_succ_next hu n).trans ht⟩

/-- Settles O9: legal streams let a step go on, and it keeps them. -/
theorem legalStreamsRunForEver : Obligations.LegalStreamsRunForEver := by
  refine ⟨fun s hs => ?_, fun s => safe_of_legalStreams⟩
  obtain ⟨t, ht⟩ := step_completes_of_legalStreams hs
  exact ⟨t, ht, step_keeps_legalStreams hs ht⟩

end Sys2Proof.Machine
end

section
/-! The exceptions family, operations of distinct channels (R206): each affects its own channel, in a way that does not
depend on the other. -/

namespace Sys2Proof.Machine

/-! ## The effect of an operation on its channel -/

/-- What an operation of channel `c` does (R110, R140): it writes the channel's bank and may convert and report one
value. -/
def State.affect (s : State) (c : Channel) (b : Bank) : Option Word → State
  | none => s.setBank c b
  | some v => ((s.setBank c b).convertOut c v).emitReport c v

section Affect
variable (s : State) (c d : Channel) (b b' : Bank) (v v' : Option Word)

@[simp] theorem bank_affect : (s.affect c b v).bank d = if d = c then b else s.bank d := by
  cases v <;> simp [State.affect]

@[simp] theorem powerGuard_affect : (s.affect c b v).powerGuard = s.powerGuard := by cases v <;> simp [State.affect]

@[simp] theorem responses_affect : (s.affect c b v).responses = s.responses := by cases v <;> simp [State.affect]

@[simp] theorem streams_affect : (s.affect c b v).streams = s.streams := by cases v <;> simp [State.affect]

@[simp] theorem schedule_affect : (s.affect c b v).schedule = s.schedule := by cases v <;> simp [State.affect]

/-- The value reported, if any, is added to the channel's own reports. -/
theorem reportsOf_affect : (s.affect c b v).reportsOf d = s.reportsOf d ++ if c = d then v.toList else [] := by
  cases v with
  | none => simpa using reportsOf_congr (by simp [State.affect]) d
  | some v => exact reportsOf_append (by simp [State.affect]) d

/-- The outputs of two channels are converted independently. -/
theorem out_affect_comm {c d : Channel} (hcd : c ≠ d) :
    ((s.affect c b v).affect d b' v').out = ((s.affect d b' v').affect c b v).out := by
  cases v with
  | none => cases v' <;> simp [State.affect]
  | some v =>
    cases v' with
    | none => simp [State.affect]
    | some v' => simpa [State.affect] using convert_comm hcd.symm v' v s.out

/-- Each channel's own reports do not depend on the order in which two channels are affected (R206). -/
theorem reportsOf_affect_comm {c d : Channel} (hcd : c ≠ d) (e : Channel) :
    ((s.affect c b v).affect d b' v').reportsOf e = ((s.affect d b' v').affect c b v).reportsOf e := by
  simp only [reportsOf_affect]
  by_cases hc : c = e
  · have hd : d ≠ e := fun h => hcd (hc.trans h.symm)
    simp [hd]
  · simp [hc]

theorem bank_affect_comm {c d : Channel} (hcd : c ≠ d) (e : Channel) :
    ((s.affect c b v).affect d b' v').bank e = ((s.affect d b' v').affect c b v).bank e := by
  simp only [bank_affect]
  by_cases hc : e = c
  · simp [hc, hcd]
  · simp [hc]

end Affect

theorem onChannel_iff_edge_or_consume {i : Instr} {c : Channel} :
    i.onChannel c = true ↔ i.isEdgeOf c = true ∨ i = .consume c := by
  cases i <;> simp [Instr.onChannel, Instr.isEdgeOf]

/-- An operation on a channel has the same effect in all states that agree on its bank and on POWER_GUARD (R29). -/
theorem exec_affects {i : Instr} {c : Channel} (hi : i.onChannel c = true) (s : State) :
    ∃ b v, ∀ u : State, u.bank c = s.bank c → u.powerGuard = s.powerGuard → exec i u = .next (u.affect c b v) := by
  rcases onChannel_iff_edge_or_consume.mp hi with hedge | rfl
  · obtain ⟨b, hb⟩ := exec_edge hedge s
    exact ⟨b, none, hb⟩
  · cases hn : (s.bank c).new with
    | true =>
      refine ⟨(s.bank c).consume, some (s.bank c).width, fun u hu _ => ?_⟩
      rw [execConsume_new (by rw [hu, hn]), hu, State.affect]
    | false =>
      refine ⟨s.bank c, none, fun u hu _ => ?_⟩
      rw [execConsume_nothing (by rw [hu, hn]), State.affect, ← hu, setBank_bank]

/-- Operations of two channels, one after another: each has the effect it has alone. -/
theorem execAll_affects {c d : Channel} {i j : Instr} {b b' : Bank} {v v' : Option Word} {s : State} (hcd : c ≠ d)
    (hi : ∀ u : State, u.bank c = s.bank c → u.powerGuard = s.powerGuard → exec i u = .next (u.affect c b v))
    (hj : ∀ u : State, u.bank d = s.bank d → u.powerGuard = s.powerGuard → exec j u = .next (u.affect d b' v')) :
    execAll [i, j] s = .next ((s.affect c b v).affect d b' v') :=
  (execAll_cons_next (hi s rfl rfl) _).trans (execAll_cons_next (hj _ (by simp [hcd.symm]) (by simp)) [])

/-- Settles O26: the two effects are the same in either order, and commute but for the place of a record. -/
theorem channelOperationsCommute : Obligations.ChannelOperationsCommute := by
  intro c d i j s hcd hi hj
  obtain ⟨b, v, hi⟩ := exec_affects hi s
  obtain ⟨b', v', hj⟩ := exec_affects hj s
  refine ⟨_, _, execAll_affects hcd hi hj, execAll_affects hcd.symm hj hi, bank_affect_comm s b b' v v' hcd,
    out_affect_comm s b b' v v' hcd, by simp, reportsOf_affect_comm s b b' v v' hcd, by simp [State.sameEnvironment]⟩

end Sys2Proof.Machine
end

section
/-! The exceptions family, FALL and CONSUME of one channel in either order (R206). -/

namespace Sys2Proof.Machine

/-- CONSUME snapshots the width that waits, if one does, clears NEW and keeps the measurement (R140, R142). -/
theorem exec_consume_bank (c : Channel) (s : State) :
    ∃ t, exec (.consume c) s = .next t ∧ t.powerGuard = s.powerGuard ∧
      t.bank c = { s.bank c with
        new := false, snap := if (s.bank c).new then (s.bank c).width else (s.bank c).snap } := by
  cases hn : (s.bank c).new with
  | true => exact ⟨_, execConsume_new hn, by simp, by simp [Bank.consume]⟩
  | false => exact ⟨s, execConsume_nothing hn, rfl, by rw [if_neg Bool.false_ne_true, ← hn]⟩

/-- FALL first: the width it records is consumed at once. -/
theorem execAll_fall_consume {c : Channel} {s : State} (ha : accept s c = true) (now : Word) :
    ∃ t, execAll [.fall c now, .consume c] s = .next t ∧
      (t.bank c).new = false ∧ (t.bank c).snap = now - (s.bank c).start := by
  obtain ⟨t, ht, -, hbank⟩ := exec_consume_bank c (s.setBank c ((s.bank c).fall now))
  refine ⟨t, (execAll_cons_next (execFall_accepted ha now) _).trans (execAll_cons_next ht []), ?_⟩
  simp [hbank, Bank.fall]

/-- CONSUME first: NEW is clear, so an unguarded or Measuring channel accepts the FALL, whose width then waits. -/
theorem execAll_consume_fall {c : Channel} {s : State}
    (h : (c = .power ∧ s.powerGuard = false) ∨ (s.bank c).meas = true) (now : Word) :
    ∃ u, execAll [.consume c, .fall c now] s = .next u ∧
      (u.bank c).new = true ∧ (u.bank c).width = now - (s.bank c).start ∧
      (u.bank c).snap = if (s.bank c).new then (s.bank c).width else (s.bank c).snap := by
  obtain ⟨t, ht, hguard, hbank⟩ := exec_consume_bank c s
  have ha : accept t c = true := by simpa [accept_eq_true_iff, hguard, hbank] using h
  refine ⟨_, (execAll_cons_next ht _).trans (execAll_cons_next (execFall_accepted ha now) []), ?_⟩
  simp [hbank]

/-- CONSUME first on a guarded Idle channel: the FALL is rejected all the same. -/
theorem execAll_consume_fall_idle {c : Channel} {s t : State} (hg : c ≠ .power ∨ s.powerGuard = true)
    (hm : (s.bank c).meas = false) (h : exec (.consume c) s = .next t) (now : Word) :
    execAll [.consume c, .fall c now] s = .next t := by
  obtain ⟨-, -, hmeas⟩ := exec_keeps_measurement (c := c) h rfl (by simp)
  have hguard : ¬(c = .power ∧ t.powerGuard = false) := by
    rw [exec_powerGuard h]
    rintro ⟨rfl, hoff⟩
    simp [hoff] at hg
  have ha : accept t c = false := accept_eq_false_iff.mpr (by simp [hguard, hmeas, hm])
  exact (execAll_cons_next h _).trans (execAll_cons_next (execFall_rejected ha now) [])

/-- Settles O27: CONSUME clears NEW, which is what the guard of a FALL after it finds. -/
theorem fallAndConsumeOrderMatters : Obligations.FallAndConsumeOrderMatters := by
  refine ⟨fun c now s ha => ?_, fun c now s hg hn => ?_⟩
  · obtain ⟨t, ht, htbank⟩ := execAll_fall_consume (accept_eq_true_iff.mpr ha) now
    obtain ⟨u, hu, hubank⟩ := execAll_consume_fall (ha.imp_right And.left) now
    exact ⟨t, u, ht, hu, htbank.left, htbank.right, hubank⟩
  · have hfall := execFall_rejected (accept_guarded_new hg hn) now
    obtain ⟨t, ht, -, hbank⟩ := exec_consume_bank c s
    refine ⟨hfall, t, (execAll_cons_next hfall _).trans (execAll_cons_next ht []), ht, by simp [hbank],
      by simp [hbank, hn], fun hm => execAll_consume_fall_idle hg hm ht now, fun hm => ?_⟩
    obtain ⟨u, hu, hnew, hwidth, hsnap⟩ := execAll_consume_fall (.inr hm) now
    exact ⟨u, hu, by simpa [hn] using hsnap, hnew, hwidth⟩

end Sys2Proof.Machine
end

section
/-! The exceptions family, the agents: the table of roles (R210), the words of edge sources and of the reference consumer
(R202, R145), and the measurement of the line (R211, R212). -/

namespace Sys2Proof.Machine

/-! ## Roles (R210) -/

theorem mayIssue_edge_iff {c : Channel} {i : Instr} :
    mayIssue (.edge c) i = true ↔ ∃ now, i = .rise c now ∨ i = .fall c now := by
  cases i <;> simp [mayIssue, eq_comm]

theorem mayIssue_consumer_iff {i : Instr} :
    mayIssue .consumer i = true ↔ (∃ c, i = .consume c) ∨ (∃ r, i = .read r) ∨ i = .nop := by
  cases i <;> simp [mayIssue]

theorem mayIssue_host_iff {i : Instr} : mayIssue .host i = true ↔ i = .reset ∨ (∃ r, i = .read r) ∨ i = .nop := by
  cases i <;> simp [mayIssue]

/-- The table of R210, one row for each kind of agent. -/
theorem mayIssue_iff {a : Agent} {i : Instr} :
    mayIssue a i = true ↔
      (∃ c now, a = .edge c ∧ (i = .rise c now ∨ i = .fall c now)) ∨
      (a = .consumer ∧ ((∃ c, i = .consume c) ∨ (∃ r, i = .read r) ∨ i = .nop)) ∨
      (a = .host ∧ (i = .reset ∨ (∃ r, i = .read r) ∨ i = .nop)) := by
  cases a with
  | edge c => simp [mayIssue_edge_iff]
  | consumer => simp [mayIssue_consumer_iff]
  | host => simp [mayIssue_host_iff]

/-- What an edge source makes of a change of its line is its to issue (R202). -/
theorem mayIssue_edgeOperation (c : Channel) (e : LineChange) : mayIssue (.edge c) (edgeOperation c e) = true := by
  rw [mayIssue_edge_iff, edgeOperation]
  cases e.rising with
  | true => exact ⟨timeBase e.time, .inl rfl⟩
  | false => exact ⟨timeBase e.time, .inr rfl⟩

/-- The reference consumer issues CONSUMEs only, as a pass does (R97, R145). -/
theorem mem_referenceConsumer {n : Nat} {i : Instr} (h : i ∈ referenceConsumer n) : ∃ c, i = .consume c := by
  induction n with
  | zero => simp [referenceConsumer] at h
  | succ n ih =>
    rcases List.mem_append.mp h with hpass | hrest
    · simp only [passOps, List.mem_cons, List.not_mem_nil, or_false] at hpass
      rcases hpass with rfl | rfl | rfl <;> exact ⟨_, rfl⟩
    · exact ih hrest

/-- The words of an agent's own operations are legal and of its role. -/
theorem legal_of_mem_map_encode {a : Agent} {l : List Instr} (hl : ∀ i ∈ l, mayIssue a i = true) {w : OpWord}
    (hw : w ∈ l.map encode) : ∃ i, decode w = .ok i ∧ mayIssue a i = true := by
  obtain ⟨i, hi, rfl⟩ := List.mem_map.mp hw
  exact ⟨i, decode_encode i, hl i hi⟩

theorem edgeStream_eq_map_encode (c : Channel) (changes : List LineChange) :
    edgeStream c changes = (changes.map (edgeOperation c)).map encode := by
  rw [List.map_map]; rfl

/-- Settles O55: an agent's words are those of operations of its role. -/
theorem agentsKeepTheirRoles : Obligations.AgentsKeepTheirRoles := by
  refine ⟨fun a i => mayIssue_iff, fun c e => ⟨mayIssue_edgeOperation c e, rfl⟩, fun c changes w hw => ?_,
    fun n w => legal_of_mem_map_encode fun i hi => ?_⟩
  · rw [edgeStream_eq_map_encode] at hw
    exact legal_of_mem_map_encode (List.forall_mem_map.mpr fun e _ => mayIssue_edgeOperation c e) hw
  · exact mayIssue_consumer_iff.mpr (.inl (mem_referenceConsumer hi))

/-! ## The line (R202, R211, R212) -/

/-- The time base counts the true length of an interval modulo its own range (R211). -/
theorem toNat_timeBase_sub {a b : Nat} (h : a ≤ b) : (timeBase b - timeBase a).toNat = (b - a) % 2 ^ 32 := by
  simp only [timeBase, BitVec.toNat_sub, BitVec.toNat_ofNat]
  omega

/-- A high interval of the line is the pulse of its length in the time base (R98, R202). -/
theorem edgeOperations_eq_pulseOps (c : Channel) (a b : Nat) :
    [edgeOperation c ⟨a, true⟩, edgeOperation c ⟨b, false⟩] = pulseOps c (timeBase a) (timeBase b - timeBase a) := by
  simp [edgeOperation, pulseOps]

/-- A high interval on a channel with no new value is measured modulo the time base's range. -/
theorem lineChanges_measured_modulo {a b : Nat} (hab : a ≤ b) {c : Channel} {s : State}
    (hn : (s.bank c).new = false) :
    ∃ t, execAll [edgeOperation c ⟨a, true⟩, edgeOperation c ⟨b, false⟩] s = .next t ∧
      (t.bank c).width.toNat = (b - a) % 2 ^ 32 ∧ (t.bank c).new = true ∧ (t.bank c).meas = false := by
  obtain ⟨t, ht, hwidth, hkept⟩ := pulseMeasuresItsWidth c (timeBase a) (timeBase b - timeBase a) s (.inr hn)
  exact ⟨t, edgeOperations_eq_pulseOps c a b ▸ ht, by rw [hwidth, toNat_timeBase_sub hab], hkept⟩

/-- Settles O56: under R212 (a) the length is below the time base's range, so the modulus changes nothing. -/
theorem lineChangesAreMeasured : Obligations.LineChangesAreMeasured := by
  refine ⟨fun c a b s hab hn => lineChanges_measured_modulo hab hn, fun c a b s hduty hn => ?_⟩
  obtain ⟨⟨hab, hlt⟩, -⟩ := (inOrder_cons_cons _ _ _).mp hduty
  have hlen : b - a < 2 ^ 32 := Nat.sub_lt_left_of_lt_add hab hlt
  have hmeasured := lineChanges_measured_modulo hab hn
  rwa [Nat.mod_eq_of_lt hlen] at hmeasured

end Sys2Proof.Machine
end

section
/-! The reset and hazards family (70_reset_and_hazards.md): RESET (R230), a FALL first after reset (R236), and a pulse
longer than the time base (R238). -/

namespace Sys2Proof.Machine

/-! ## A pulse longer than the time base counts (R238) -/

/-- Settles O22: the captured width is the difference of the time base at the two edges, which counts the true length
modulo its range. -/
theorem widthIsTheTrueLengthModuloTheTimeBase : Obligations.WidthIsTheTrueLengthModuloTheTimeBase := by
  intro c a b l s u hab hl hu ha
  obtain ⟨u', hu', hfall⟩ := capturedWidthIsExact c (timeBase a) (timeBase b) l s hl
  obtain rfl : u' = u := Host.Outcome.next.inj (hu'.symm.trans hu)
  obtain ⟨t, ht, hwidth, -⟩ := hfall ha
  exact ⟨t, ht, by rw [hwidth, toNat_timeBase_sub hab]⟩

/-! ## RESET (R230) -/

/-- Settles O15: every bank and the outputs are those of reset, and RESET writes nothing else. -/
theorem resetPutsTheBlockInItsResetState : Obligations.ResetPutsTheBlockInItsResetState := by
  refine ⟨by decide, fun s => ?_⟩
  obtain ⟨t, ht⟩ := exec_completes .reset s
  have hbanks : ∀ c, t.bank c = Bank.reset := bank_of_execReset ht
  have hout : t.out = Outputs.reset := out_of_execReset ht
  have hreports : t.reports = s.reports := by cases ht; rfl
  refine ⟨t, ht, by simp [hbanks, Bank.reset], ?_⟩
  rw [hout]
  exact ⟨rfl, rfl, rfl, rfl, rfl, memRead_config_congr (exec_powerGuard ht), hreports, exec_sameEnvironment ht⟩

/-! ## A FALL first after reset (R236) -/

/-- A guarded channel that is Idle rejects every FALL (R112). -/
theorem accept_guarded_idle {s : State} {c : Channel} (hg : c ≠ .power ∨ s.powerGuard = true)
    (hm : (s.bank c).meas = false) : accept s c = false := by
  rw [accept_eq_false_iff]
  rcases hg with hc | hg
  · simp [hc, hm]
  · simp [hg, hm]

/-- OUT_POWER is ON after a conversion exactly from the threshold up (R141, R173). -/
theorem power_convert_iff (v : Word) (o : Outputs) : (convert .power v o).power = true ↔ 1500 ≤ v.toNat :=
  (powerSwitch_iff _).trans Int.ofNat_le

/-- Settles O17: at power-on every channel is Idle with START 0, so an unguarded channel 0 records the timestamp itself
and a guarded channel rejects. -/
theorem firstFallAfterReset : Obligations.FirstFallAfterReset := by
  have hidle (g : Bool) (c : Channel) : ((State.powerOn g).bank c).meas = false := by simp [Bank.reset]
  have hstart : (State.powerOn false).idleStartsZero := idleStartsZero_of_reset_banks (by simp)
  refine ⟨fun now => ?_, fun g c now hg => execFall_rejected (accept_guarded_idle hg (hidle g c)) now⟩
  obtain ⟨t, ht, hwidth, hnew⟩ := (idleFallOnChannelZero now _ hstart (hidle false .power)).left rfl
  exact ⟨t, _, ht, hwidth, hnew, execConsume_new hnew, hwidth ▸ power_convert_iff _ _⟩

end Sys2Proof.Machine
end
